-- ==== Sys2Proof/Word.lean ====
section
/-! DEFINITION. The byte and the few names that every file of the model uses. -/

namespace Sys2Proof

/-- A byte of a frame, of the store or of the record space. -/
abbrev Byte := BitVec 8

/-- Milliseconds in µs: all times of the model are µs (one count of the 1 MHz capture clock, R2). -/
abbrev ms (n : Nat) : Nat := 1000 * n

/-- Seconds in µs. -/
abbrev sec (n : Nat) : Nat := 1000000 * n

end Sys2Proof
end

