-- ==== Sys2Proof/Syntax.lean ====
section
/-! DEFINITION. The commands of the part: one constructor of `Instr` for each row of spec/opcode_table.json, with
its operands. A command is one event (spec/95: "each whole and indivisible"). -/

namespace Sys2Proof

/-- The two tunnel lines. -/
inductive LineId where
  | l1 | l2
  deriving DecidableEq, Repr

/-- Fans F1..F4 are 0..3. -/
abbrev FanId := Fin 4

/-- The two period channels (R6). -/
inductive PeriodChannel where
  | smoke | temperature
  deriving DecidableEq, Repr

/-- The two call points (R11). -/
inductive CallPoint where
  | cp1 | cp2
  deriving DecidableEq, Repr

/-- The function of a port cycle (R162); its code on PFN: `portFnOf`. -/
inductive PortFn where
  | mode | dataInc | pointer | dataNoInc
  deriving DecidableEq, Repr

/-- The levels of the field pins at release of a reset (R3, R12, R14): the anemometer line, phases A and B of the
tachometers, the drive-fault contacts (true: closed, active). Bit f is fan f. -/
structure PinLevels where
  anemometer : Bool
  phaseA     : BitVec 4
  phaseB     : BitVec 4
  driveFault : BitVec 4
  deriving DecidableEq, Repr

/-- The two edges of a reset. The part is held in reset from `asserted` to `released` (R162, R169). -/
inductive ResetEdge where
  | asserted
  | released (pins : PinLevels)
  deriving DecidableEq, Repr

/-- Noise on a line (R20), with the idle time in µs that the line has at it: the first byte has ended 120 µs before. -/
structure Noise where
  line : LineId
  idle : Nat
  deriving DecidableEq, Repr

/-- A received body (R21) of a kind the row names: header after the kind byte, payload, check code. -/
structure Frame where
  origin  : Byte
  seq     : Byte
  flags   : Byte
  payload : List Byte
  check   : BitVec 16
  deriving DecidableEq, Repr

/-- A received ORDER body (R174): the order kind (payload byte 0) is the row's; `number` is payload byte 1 and
`params` payload bytes 2..8. -/
structure OrderFrame where
  origin : Byte
  seq    : Byte
  flags  : Byte
  number : Byte
  params : List Byte
  check  : BitVec 16
  deriving DecidableEq, Repr

/-- The commands, in the order of spec/opcode_table.json. -/
inductive Instr where
  | powerOnReset (edge : ResetEdge)
  | resetN (edge : ResetEdge)
  | load
  | entryToRun
  | sampleTimerExpiry
  /-- the line's new level -/
  | anemometerEdge (level : Bool)
  | anemometerWatchExpiry
  /-- a rising edge of the channel -/
  | periodChannelEdge (c : PeriodChannel)
  | periodChannelWatchExpiry (c : PeriodChannel)
  /-- a falling edge of the input -/
  | callPointEdge (p : CallPoint)
  /-- the new levels of both phases -/
  | tachometerEdge (f : FanId) (a b : Bool)
  | tachWindowTimerExpiry
  /-- the new input state, true: contact closed -/
  | driveFaultInputChange (f : FanId) (active : Bool)
  | driveFaultDebounceExpiry (f : FanId)
  | pwmPeriodBoundary (f : FanId)
  | lineNoise (l : Noise)
  /-- the idle time in µs that the line has reached -/
  | attemptStart (l : LineId) (idle : Nat)
  | attemptClean (l : LineId)
  | attemptCollision (l : LineId)
  | attemptEchoAbsent (l : LineId)
  | quietWatchExpiry (l : LineId)
  | probeTimerExpiry (l : LineId)
  | reportTimerExpiry
  | sectionReport (l : LineId) (b : Frame)
  /-- the section, 1..96 -/
  | entryAgeExpiry (k : Nat)
  | incident (l : LineId) (b : Frame)
  | startClaim (l : LineId) (b : Frame)
  | declare (l : LineId) (b : OrderFrame)
  | forceDirection (l : LineId) (b : OrderFrame)
  | standDown (l : LineId) (b : OrderFrame)
  | inhibit (l : LineId) (b : OrderFrame)
  | release (l : LineId) (b : OrderFrame)
  | ventRun (l : LineId) (b : OrderFrame)
  | ventStop (l : LineId) (b : OrderFrame)
  | ventRunExpiry
  | alertClearExpiry
  | declarerTimerExpiry
  | guardTimerExpiry
  | controlIntervalExpiry
  | sourceTimerExpiry
  | brakeLimitExpiry (f : FanId)
  | staggerExpiry (f : FanId)
  | startLimitExpiry (f : FanId)
  | coastLimitExpiry (f : FanId)
  | faultHoldExpiry (f : FanId)
  /-- the section whose entry expires, 1..96 -/
  | queueEntryExpiry (k : Nat)
  | resendTimerExpiry
  | runMinuteElapsed (f : FanId)
  /-- at the falling edge of PSTB_N: PCS_N low, the code on PFN, PRW high -/
  | portCycleBegin (selected : Bool) (pfn : BitVec 2) (prw : Bool)
  | modeWrite (data : Byte)
  /-- the level of SERVICE_EN at the read -/
  | modeRead (serviceEn : Bool)
  | pointerWrite (data : Byte)
  | pointerRead
  /-- the byte on PD and the level of SERVICE_EN at the ending edge -/
  | dataWriteAutoincrement (data : Byte) (serviceEn : Bool)
  | dataWriteNoIncrement (data : Byte) (serviceEn : Bool)
  | dataReadAutoincrement
  | dataReadNoIncrement
  | queueEntryProgrammed
  | updateItemProgrammed
  /-- the bytes kept of the body, and whether it ended at a stop cell read 0 or ran past 36 bytes (R20) -/
  | discardedBody (l : LineId) (body : List Byte) (cut : Bool)
  /-- the order kind byte, none of 1..7 -/
  | undefinedOrderKind (l : LineId) (kind : Byte) (b : OrderFrame)
  deriving DecidableEq, Repr

end Sys2Proof
end

