-- ==== Sys2Proof/Decode.lean ====
section
/-! DEFINITION. No row of spec/opcode_table.json gives bits: a command of this block is an event, not a word. -/

namespace Sys2Proof

/-- The command a word spells by the table's bits: none, for the table gives no row bits (log 32). -/
def decodeTableWord (_nbits _w : Nat) : Option Instr := none

end Sys2Proof
end

