-- ==== Sys2Proof/Config.lean ====
section
/-! DEFINITION. What the manual fixes by number, and the free values of the model. -/

namespace Sys2Proof.Config

/-! ## Periods and limits the manual states -/

/-- Sample timer and CONFIG_INVALID window timer period (R1, R12). -/
def samplePeriod : Nat := ms 500
/-- Silence that makes the anemometer channel stuck (R3). -/
def anemometerWatch : Nat := ms 100
/-- Silence that makes a period channel DEAD (R7). -/
def periodWatch : Nat := ms 1000
/-- Call-point and drive-fault debounce (R11, R14). -/
def debounce : Nat := ms 50
/-- PWM period (R15). -/
def pwmPeriod : Nat := ms 10
/-- Idle time from which a line is idle: two byte times (R19). -/
def idleGap : Nat := 80
/-- Ten cells of 4 µs (R19). -/
def byteTime : Nat := 40
/-- Time from a frame's first start cell to noise: four byte times (R20). -/
def noiseWindow : Nat := 160
/-- Quiet watch (R27). -/
def quietWatch : Nat := ms 3000
/-- Probe timer (R28). -/
def probePeriod : Nat := sec 5
/-- Collisions after which a copy is dropped (R26). -/
def attemptLimit : Nat := 16
/-- Window of duplicate suppression in ms (R31). -/
def duplicateMs : Nat := 2000
/-- Last millisecond of FRESH and of STALE (R37). -/
def freshMs : Nat := 2500
def staleMs : Nat := 6000
/-- Elapsed-time counters stop here (R36). -/
def elapsedLimit : Nat := 65535
/-- ALERT clear timer (R53). -/
def alertClear : Nat := sec 30
/-- Heat run (R57). -/
def heatRun : Nat := ms 3000
/-- Declarer timer and control interval (R68, R86). -/
def declarerPeriod : Nat := ms 2000
def controlInterval : Nat := ms 2000
/-- A demand source older than this many ms is timed out (R89, R90). -/
def sourceMs : Nat := 6000
/-- The retired list's length (R82). -/
def retiredLimit : Nat := 8
/-- Fan timers (R119, R126, R129) and supervision runs (R125, R132). -/
def brakeLimit : Nat := sec 60
def coastLimit : Nat := sec 120
def faultHold : Nat := sec 30
def speedLossRun : Nat := ms 10000
def directionRun : Nat := ms 2000
def exposureRun : Nat := ms 10000
/-- A run minute, and the minutes between two writes of the count (R136). -/
def runMinute : Nat := ms 60000
def minutesPerWrite : Nat := 15
/-- The start queue's length, its entries' expiry and the re-send timer (R140, R142, R149). -/
def queueLimit : Nat := 24
def claimExpiry : Nat := ms 12000
def resendPeriod : Nat := ms 5000
/-- The write queue's length (R165) and the time to program one byte (spec/10 opening). -/
def writeQueueLimit : Nat := 8
def programByte : Nat := ms 3
/-- LISTEN (R171). -/
def listenTime : Nat := ms 3000

/-! ## Free values: no body, so no proof can see what they are -/

/-- Where the i-th of the events that fall due together goes in the order they are taken: the manual says
"either may be taken first". Applied to State.draws, a fresh number at every use. (log 2, log 3) -/
opaque freePlace : Nat → Nat → Nat

/-- Which of two neighbours acts first where the manual says either may (R117). (log 4) -/
opaque freeBool : Nat → Bool

/-- "Whatever stands on PD" when a read cycle is discarded (R162). (log 14) -/
opaque freeByte : Nat → Byte

end Sys2Proof.Config
end

