-- ==== Sys2Proof/Machine/State.lean ====
section
/-! DEFINITION. The state of the part: everything the manual gives it, block by block (spec/00 Blocks), as plain
data. Times are µs on the scale of `State.now`; a timer is the time it expires, an elapsed count the time it began.
INVENTORY.md lists each field with its rule and reset value. -/

namespace Sys2Proof.Machine

/-! ## Enumerated values (R173) -/

/-- Direction (spec/00 Tunnel geometry). -/
inductive Direction where
  | towardB | towardA
  deriving DecidableEq, Repr

/-- Node life (R171, R173). -/
inductive Life where
  | load | listen | run | configInvalid
  deriving DecidableEq, Repr

/-- What stopped LOAD (R169). -/
inductive LoadCause where
  | none | tunnelCrc | nodeCrc | tunnelSize | sectionIndex
  deriving DecidableEq, Repr

/-- Anemometer channel (R3). -/
inductive AnemoState where
  | ok | stuckLow | stuckHigh
  deriving DecidableEq, Repr

/-- Node incident state (spec/04 4.1). -/
inductive IncState where
  | quiet | alert | declared | controlled | holding
  deriving DecidableEq, Repr

/-- Detector state (spec/04 4.2). -/
inductive DetState where
  | normal | preAlarm | confirming | alarm | outOfService
  deriving DecidableEq, Repr

/-- Line state (spec/02 2.4). -/
inductive LineState where
  | up | quiet | down
  deriving DecidableEq, Repr

/-- Section View entry state (R37). -/
inductive EntryState where
  | empty | fresh | stale | lost
  deriving DecidableEq, Repr

/-- Claim state of a START_CLAIM frame (spec/08 8.1). -/
inductive ClaimState where
  | wait | go | done | abandon
  deriving DecidableEq, Repr

/-- The own claim (spec/08 8.3). -/
inductive OwnClaim where
  | none | wait | go
  deriving DecidableEq, Repr

/-- Fan channel state (spec/07). -/
inductive FanState where
  | off | braking | startWait | starting | running | stopping | fault | lockedOut
  deriving DecidableEq, Repr

/-- Last fault cause (R114). -/
inductive FaultCause where
  | none | windmill | drive | start | speedLoss | direction
  deriving DecidableEq, Repr

/-- Lockout cause (R114). -/
inductive LockoutCause where
  | none | thirdFault | exposure | latchedAtStart
  deriving DecidableEq, Repr

/-- Direction rule (R67). -/
inductive DirectionRule where
  | fixedA | fixedB | followDraught | nearPortal
  deriving DecidableEq, Repr

/-- The kinds of frame a node sends, each with a slot per line (R22). -/
inductive TxKind where
  | report | incident | claim
  deriving DecidableEq, Repr

/-- The order kinds (spec/09 9.1). -/
inductive OrderKind where
  | declare | forceDirection | standDown | inhibit | release | ventRun | ventStop
  deriving DecidableEq, Repr

/-! ## The running copy (R168 to R170, settings tables of spec/10) -/

/-- Per-fan settings. -/
structure FanSettings where
  thrust  : Nat
  speed   : Nat
  pulses  : Nat
  reverse : Nat
  deriving DecidableEq, Repr

/-- Slope and offset in units of 1/65536 (R8). -/
structure Calibration where
  slope  : Int
  offset : Int
  deriving DecidableEq, Repr

/-- The settings in force. -/
structure Settings where
  n             : Nat
  vt            : Nat
  kp            : Nat
  ki            : Nat
  initialDemand : Nat
  u             : Nat
  d             : Nat
  rule          : DirectionRule
  dflt          : Direction
  startsLimit   : Nat
  exposure      : Nat
  smokePre      : Nat
  smokeAlarm    : Nat
  smokeConfirm  : Nat
  heatPre       : Nat
  heatAlarm     : Nat
  riseAlarm     : Nat
  guard         : Nat
  own           : Nat
  group         : Nat
  installed     : Nat
  fans          : Vector FanSettings 4
  startLimit    : Nat
  sMin          : Nat
  calAnemo      : Calibration
  calSmoke      : Calibration
  calTemp       : Calibration
  deriving DecidableEq, Repr

/-- The running copy: settings, the addresses of the settings changed at LOAD, the tunnel configuration tag, the
check codes as stored (log 23). -/
structure Running where
  settings    : Settings
  clamps      : List Nat
  tag         : Nat
  tunnelCheck : Nat
  nodeCheck   : Nat
  deriving DecidableEq, Repr

/-! ## Field Input Unit (spec/01) -/

/-- Anemometer channel (R2, R3). -/
structure Anemometer where
  level     : Bool
  state     : AnemoState
  high      : Nat
  low       : Nat
  watchFrom : Nat
  riseAt    : Option Nat
  fallAt    : Option Nat
  deriving DecidableEq, Repr

/-- A period channel (R6, R7). -/
structure PeriodCh where
  dead      : Bool
  period    : Nat
  riseAt    : Option Nat
  watchFrom : Nat
  deriving DecidableEq, Repr

/-- A call point (R11). -/
structure CallCounter where
  count      : BitVec 16
  acceptedAt : Option Nat
  deriving DecidableEq, Repr

/-- Tachometer, drive-fault contact and speed output of one fan (R12 to R15). -/
structure FanInput where
  phaseA      : Bool
  phaseB      : Bool
  count       : Int
  rpm         : Int
  measured    : Int
  faultLevel  : Bool
  debounced   : Bool
  differsFrom : Option Nat
  duty        : Nat
  pendingDuty : Option Nat
  periodFrom  : Nat
  deriving DecidableEq, Repr

/-- The Local Observation (R16). -/
structure Observation where
  velocity    : Option Int
  smoke       : Option Int
  temperature : Option Int
  rise        : Option Int
  anemo       : AnemoState
  smokeDead   : Bool
  tempDead    : Bool
  callCount   : Nat
  speeds      : List Int
  deriving DecidableEq, Repr

structure Fiu where
  sampleDue   : Option Nat
  expiries    : Nat
  windowDue   : Option Nat
  anemo       : Anemometer
  anemoSample : Option Int
  smoke       : PeriodCh
  temp        : PeriodCh
  window      : List (Option Int)
  velocity    : Option Int
  history     : List (Option Int)
  rise        : Option Int
  call1       : CallCounter
  call2       : CallCounter
  fans        : Vector FanInput 4
  obs         : Option Observation
  deriving DecidableEq, Repr

/-! ## Line Interface Unit (spec/02) -/

/-- What numbering gives a frame (R23). -/
structure Header where
  seq   : BitVec 8
  flags : Byte
  check : Nat
  deriving DecidableEq, Repr

/-- One copy of a frame in a slot (R22). `id` is the model's name of the frame its copies belong to (log 29). -/
structure Copy where
  id       : Nat
  payload  : List Byte
  attempts : Nat
  header   : Option Header
  deriving DecidableEq, Repr

structure Slot where
  cur : Option Copy
  nxt : Option Copy
  deriving DecidableEq, Repr

structure Line where
  state      : LineState
  idleSince  : Nat
  report     : Slot
  incident   : Slot
  claim      : Slot
  attempt    : Option TxKind
  /-- when the attempt in progress, or the last one, began -/
  attemptFrom : Nat
  drops      : Nat
  quietFrom  : Nat
  probeDue   : Option Nat
  probeOk    : Bool
  accepted   : BitVec 16
  length     : BitVec 16
  crc        : BitVec 16
  origin     : BitVec 16
  noise      : BitVec 16
  collisions : BitVec 16
  dropped    : BitVec 16
  downs      : BitVec 16
  deriving DecidableEq, Repr

structure Liu where
  l1        : Line
  l2        : Line
  seq       : BitVec 8
  frames    : Nat
  reportDue : Option Nat
  deriving DecidableEq, Repr

/-! ## Section View Table (spec/03) -/

/-- The identity of an incident (R70). -/
structure Identity where
  station : Nat
  number  : BitVec 8
  deriving DecidableEq, Repr

/-- Last accepted sequence and time of last acceptance of an origin (R31, R41). -/
structure OriginRec where
  seq : BitVec 8
  time : Nat
  deriving DecidableEq, Repr

/-- The held incident summary a report carries (R36). -/
structure Summary where
  id       : Identity
  severity : Nat
  dir      : Direction
  version  : BitVec 8
  deriving DecidableEq, Repr

/-- The four detector states a report carries (R36). -/
structure DetStates where
  smoke    : DetState
  call     : DetState
  heat     : DetState
  operator : DetState
  deriving DecidableEq, Repr

/-- The fields of a section entry that a report carries (R36). -/
structure Report where
  life        : Life
  state       : IncState
  velocity    : Option Int
  smoke       : Option Int
  temperature : Option Int
  anemo       : AnemoState
  smokeDead   : Bool
  tempDead    : Bool
  callCount   : Nat
  dets        : DetStates
  installed   : Nat
  healthy     : Nat
  running     : Nat
  lead        : Bool
  inhibit     : Bool
  vent        : Bool
  clamped     : Bool
  availB      : Nat
  availA      : Nat
  thrust      : Int
  group       : Nat
  summary     : Option Summary
  lastOrder   : Option (Nat × BitVec 8)
  tag         : Nat
  deriving DecidableEq, Repr

structure Entry where
  state     : EntryState
  writtenAt : Nat
  origin    : Option OriginRec
  heard1    : Option Nat
  heard2    : Option Nat
  payload   : List Byte
  report    : Report
  tagMatch  : Bool
  deriving DecidableEq, Repr

/-- A gateway table entry (R50). -/
structure Gateway where
  origin   : Option OriginRec
  executed : Option (BitVec 8)
  deriving DecidableEq, Repr

structure Svt where
  entries  : Vector Entry 96
  gateways : Vector Gateway 4
  rejected : BitVec 16
  deriving DecidableEq, Repr

/-! ## Incident Controller (spec/04, spec/05) -/

/-- A detector: state, latch, re-arm mark, start of the confirm or heat run (R55 to R60). -/
structure Detector where
  state   : DetState
  latched : Bool
  rearm   : Bool
  since   : Option Nat
  deriving DecidableEq, Repr

structure DemandSource where
  station : Nat
  time : Nat
  seq     : BitVec 8
  deriving DecidableEq, Repr

/-- The demand part (R70). -/
structure Demand where
  t      : Nat
  source : Option DemandSource
  ePrev  : Option Int
  deriving DecidableEq, Repr

/-- Direction, version and source (R75). -/
structure Triple where
  dir     : Direction
  version : BitVec 8
  source  : Nat
  deriving DecidableEq, Repr

/-- A pending direction update (R77). -/
structure PendingTriple where
  triple : Triple
  time : Nat
  deriving DecidableEq, Repr

/-- The held incident record (R70). -/
structure Held where
  id       : Identity
  severity : Nat
  triple   : Triple
  locus    : Nat
  demand   : Option Demand
  pending  : Option PendingTriple
  deriving DecidableEq, Repr

structure Inc where
  state       : IncState
  smoke       : Detector
  call        : Detector
  heat        : Detector
  operator    : Detector
  alertClear  : Option Nat
  held        : Option Held
  retired     : List Identity
  guardUntil  : Option Nat
  declarerDue : Option Nat
  lead        : Bool
  controlDue  : Option Nat
  sourceUntil : Option Nat
  leadVc      : Option Int
  rejected    : BitVec 16
  refused     : BitVec 16
  declCounter : BitVec 24
  lastDrawn   : BitVec 8
  deriving DecidableEq, Repr

/-! ## Thrust Allocator (spec/06) -/

/-- The plan record (R107) but for the targets, which stand in `Fch.planTargets`. -/
structure Plan where
  dir       : Direction
  demand    : Nat
  basisHeld : Bool
  tcap      : Nat
  eligible  : Nat
  before    : Nat
  share     : Nat
  h         : Nat
  f1        : Option Nat
  fMin      : Option Nat
  threshold : Option Nat
  f         : Option Nat
  k         : Nat
  speed     : Option Nat
  derating  : Nat
  deriving DecidableEq, Repr

structure Tal where
  derating : Nat
  avail    : Option (Nat × Nat)
  plan     : Option Plan
  deriving DecidableEq, Repr

/-! ## Fan Channels (spec/07) -/

/-- A target (R116). -/
inductive Target where
  | off
  | run (d : Direction) (speed : Nat)
  deriving DecidableEq, Repr

/-- One fan channel (R114). -/
structure Fan where
  state          : FanState
  target         : Target
  cmdDir         : Direction
  cmdSpeed       : Nat
  measured       : Int
  faultCount     : Nat
  lastFault      : FaultCause
  lockout        : LockoutCause
  coastOverrun   : Bool
  brakeUntil     : Option Nat
  staggerUntil   : Option Nat
  startUntil     : Option Nat
  coastUntil     : Option Nat
  holdUntil      : Option Nat
  speedLossFrom  : Option Nat
  directionFrom  : Option Nat
  acc            : Nat
  accSince       : Option Nat
  minutes        : BitVec 24
  minutesWritten : BitVec 24
  starts         : BitVec 24
  faults         : BitVec 24
  deriving DecidableEq, Repr

structure Fch where
  fans         : Vector Fan 4
  claim        : Option FanId
  planTargets  : Vector Target 4
  exposureFrom : Option Nat
  lastExposure : Option Nat
  deriving DecidableEq, Repr

/-! ## Start Queue (spec/08) -/

/-- An entry of the start queue (R140); `go` is the announced state GO. -/
structure QueueEntry where
  station : Nat
  fan     : Nat
  number  : BitVec 8
  go      : Bool
  heardAt : Nat
  deriving DecidableEq, Repr

structure Sq where
  list      : List QueueEntry
  own       : OwnClaim
  ownFan    : Option FanId
  ownNumber : BitVec 8
  resendDue : Option Nat
  overflow  : Bool
  rejected  : BitVec 16
  dropped   : BitVec 16
  expired   : BitVec 16
  deriving DecidableEq, Repr

/-! ## Order Decoder (spec/09) -/

/-- The vent-run record (R159). -/
structure Vent where
  gateway : Nat
  number  : BitVec 8
  first   : Nat
  last    : Nat
  dir     : Direction
  speed   : Nat
  ends  : Nat
  deriving DecidableEq, Repr

structure Ord where
  inhibit   : Bool
  vent      : Option Vent
  refused   : BitVec 16
  repeated  : BitVec 16
  lastOrder : Option (Nat × BitVec 8)
  deriving DecidableEq, Repr

/-! ## Service Port (spec/10) -/

/-- A port cycle in progress (R162). -/
structure Cycle where
  fn   : PortFn
  read : Bool
  deriving DecidableEq, Repr

/-- The record held in the snapshot buffer (R168). -/
structure Snapshot where
  base  : Nat
  bytes : List Byte
  deriving DecidableEq, Repr

structure Spt where
  dual      : Bool
  select    : Bool
  phase     : Bool
  rp        : BitVec 16
  wp        : BitVec 16
  queue     : List (BitVec 16 × Byte)
  refused   : Bool
  snap      : Option Snapshot
  second    : Bool
  cycle     : Option Cycle
  pd        : Byte
  serviceEn : Bool
  deriving DecidableEq, Repr

/-! ## Configuration Store (spec/10) -/

/-- The store's bytes: (address, byte) pairs, addresses rising, none 00h, which is what an unlisted address reads
(R178; log 6). -/
abbrev Memory := List Host.Cell

/-- The canonical form. -/
abbrev Memory.wf (m : Memory) : Prop :=
  m.Pairwise (fun x y => x.1 < y.1) ∧ ∀ c ∈ m, c.2 ≠ 0

/-- The eighteen items of internal updates (R167). -/
inductive Item where
  | declCounter
  | startCounter (f : FanId)
  | faultCounter (f : FanId)
  | runMinutes (f : FanId)
  | latch (f : FanId)
  | ownInhibit
  deriving DecidableEq, Repr

/-- What the programming engine works on (R165, R167): the oldest write-queue entry, or an item with its value. -/
inductive Work where
  | portEntry
  | item (i : Item) (value : Nat)
  deriving DecidableEq, Repr

structure Job where
  work   : Work
  ends : Nat
  deriving DecidableEq, Repr

structure Cst where
  store   : Memory
  updates : List (Item × Nat)
  engine  : Option Job
  deriving DecidableEq, Repr

/-! ## The whole -/

/-- What an event still has to do before it ends; all clear between events (log 5). -/
structure Signals where
  plan     : Bool
  avail    : Bool
  incident : Bool
  report   : Bool
  deriving DecidableEq, Repr

/-- The resets in force: asserted and not yet released. -/
structure Resets where
  powerOn : Bool
  resetN  : Bool
  deriving DecidableEq, Repr

structure State where
  now         : Nat
  draws       : Nat
  pending     : List Instr
  signals     : Signals
  life        : Life
  resets      : Resets
  loadCause   : LoadCause
  listenUntil : Option Nat
  running     : Option Running
  fiu         : Fiu
  liu         : Liu
  svt         : Svt
  inc         : Inc
  tal         : Tal
  fch         : Fch
  sq          : Sq
  ord         : Ord
  spt         : Spt
  cst         : Cst
  deriving DecidableEq, Repr

/-- Why a step can stop with a fault. The manual names no event that stops the part: no meaning raises this. -/
inductive Fault where
  /-- Raised by no meaning; safe. -/
  | unreachable
  deriving DecidableEq, Repr

/-- Why a command has no meaning. -/
inductive Refusal where
  /-- Raised by an arm of `exec` whose command has no meaning yet (none has this); safe. -/
  | notModelled (mnemonic : String)
  deriving DecidableEq, Repr

/-! ## Reset values of each block (R18, R35, R52, R54, R70, R112, R114, R150, R161, R172) -/

def Signals.clear : Signals := ⟨false, false, false, false⟩

/-- The three channels and the fan inputs at release of reset (R18), from the pins' levels. -/
def Anemometer.atReset (level : Bool) (now : Nat) : Anemometer :=
  { level, state := if level then .stuckHigh else .stuckLow
    high := if level then 65535 else 0, low := if level then 0 else 65535
    watchFrom := now, riseAt := none, fallAt := none }

def PeriodCh.atReset (now : Nat) : PeriodCh :=
  { dead := true, period := 0, riseAt := none, watchFrom := now }

def CallCounter.atReset : CallCounter := { count := 0, acceptedAt := none }

def FanInput.atReset (a b fault : Bool) (now : Nat) : FanInput :=
  { phaseA := a, phaseB := b, count := 0, rpm := 0, measured := 0, faultLevel := fault, debounced := fault
    differsFrom := none, duty := 0, pendingDuty := none, periodFrom := now }

def Fiu.atReset (p : PinLevels) (now : Nat) : Fiu :=
  { sampleDue := none, expiries := 0, windowDue := some (now + Config.samplePeriod)
    anemo := .atReset p.anemometer now, anemoSample := none
    smoke := .atReset now, temp := .atReset now, window := [], velocity := none, history := [], rise := none
    call1 := .atReset, call2 := .atReset
    fans := #v[.atReset (p.phaseA.getLsbD 0) (p.phaseB.getLsbD 0) (p.driveFault.getLsbD 0) now,
               .atReset (p.phaseA.getLsbD 1) (p.phaseB.getLsbD 1) (p.driveFault.getLsbD 1) now,
               .atReset (p.phaseA.getLsbD 2) (p.phaseB.getLsbD 2) (p.driveFault.getLsbD 2) now,
               .atReset (p.phaseA.getLsbD 3) (p.phaseB.getLsbD 3) (p.driveFault.getLsbD 3) now]
    obs := none }

def Slot.empty : Slot := ⟨none, none⟩

def Line.atReset (now : Nat) : Line :=
  { state := .quiet, idleSince := now, report := .empty, incident := .empty, claim := .empty, attempt := none
    attemptFrom := now, drops := 0, quietFrom := now, probeDue := none, probeOk := false, accepted := 0, length := 0, crc := 0
    origin := 0, noise := 0, collisions := 0, dropped := 0, downs := 0 }

def Liu.atReset (now frames : Nat) : Liu :=
  { l1 := .atReset now, l2 := .atReset now, seq := 0, frames, reportDue := none }

def DetStates.normal : DetStates := ⟨.normal, .normal, .normal, .normal⟩

/-- An entry's fields before they are written: they have no value and are never read (R36). -/
def Report.unwritten : Report :=
  { life := .load, state := .quiet, velocity := none, smoke := none, temperature := none, anemo := .ok
    smokeDead := false, tempDead := false, callCount := 0, dets := .normal, installed := 0, healthy := 0
    running := 0, lead := false, inhibit := false, vent := false, clamped := false, availB := 0, availA := 0
    thrust := 0, group := 0, summary := none, lastOrder := none, tag := 0 }

def Entry.empty : Entry :=
  { state := .empty, writtenAt := 0, origin := none, heard1 := none, heard2 := none, payload := []
    report := .unwritten, tagMatch := false }

def Gateway.empty : Gateway := ⟨none, none⟩

def Svt.atReset : Svt :=
  { entries := Vector.replicate 96 .empty, gateways := Vector.replicate 4 .empty, rejected := 0 }

def Detector.normal : Detector := ⟨.normal, false, false, none⟩

def Inc.atReset : Inc :=
  { state := .quiet, smoke := .normal, call := .normal, heat := .normal, operator := .normal, alertClear := none
    held := none, retired := [], guardUntil := none, declarerDue := none, lead := false, controlDue := none
    sourceUntil := none, leadVc := none, rejected := 0, refused := 0, declCounter := 0, lastDrawn := 0 }

def Tal.atReset : Tal := { derating := 20, avail := none, plan := none }

def Fan.atReset : Fan :=
  { state := .off, target := .off, cmdDir := .towardB, cmdSpeed := 0, measured := 0, faultCount := 0
    lastFault := .none, lockout := .none, coastOverrun := false, brakeUntil := none, staggerUntil := none
    startUntil := none, coastUntil := none, holdUntil := none, speedLossFrom := none, directionFrom := none
    acc := 0, accSince := none, minutes := 0, minutesWritten := 0, starts := 0, faults := 0 }

def Fch.atReset : Fch :=
  { fans := Vector.replicate 4 .atReset, claim := none, planTargets := Vector.replicate 4 .off
    exposureFrom := none, lastExposure := none }

def Sq.atReset : Sq :=
  { list := [], own := .none, ownFan := none, ownNumber := 0, resendDue := none, overflow := false
    rejected := 0, dropped := 0, expired := 0 }

def Ord.atReset : Ord := { inhibit := false, vent := none, refused := 0, repeated := 0, lastOrder := none }

/-- Power-on values of the port (R164, R172). -/
def Spt.atPowerOn : Spt :=
  { dual := false, select := false, phase := false, rp := 0, wp := 0, queue := [], refused := false, snap := none
    second := false, cycle := none, pd := 0, serviceEn := false }

def Cst.blank : Cst := { store := [], updates := [], engine := none }

/-- The pins of `State.reset`: anemometer and tachometers low, contacts open (log 7). -/
def pinsLow : PinLevels := ⟨false, 0, 0, 0⟩

/-- The part right after power-on reset, released, with nothing in its store: in LOAD, LOAD due at once (R169). -/
def State.reset : State :=
  { now := 0, draws := 0, pending := [], signals := .clear, life := .load, resets := ⟨false, false⟩, loadCause := .none
    listenUntil := none, running := none, fiu := .atReset pinsLow 0, liu := .atReset 0 0, svt := .atReset
    inc := .atReset, tal := .atReset, fch := .atReset, sq := .atReset, ord := .atReset, spt := .atPowerOn
    cst := .blank }

end Sys2Proof.Machine
end

