-- ==== Sys2Proof/Machine/Arith.lean ====
section
/-! DEFINITION. The manual's arithmetic words (spec/00 Arithmetic words, Serial comparison, Byte order and check
codes), elapsed and remaining times (R176), and the free order of events that fall together. -/

namespace Sys2Proof.Machine

/-- A saturating counter stops at its maximum and does not wrap. -/
def satInc {w : Nat} (c : BitVec w) : BitVec w := if c = BitVec.allOnes w then c else c + 1

/-- clamp(x, lo, hi). -/
def clampInt (x lo hi : Int) : Int := max lo (min x hi)

def clampNat (x lo hi : Nat) : Nat := max lo (min x hi)

/-- x / d rounded half away from zero. -/
def roundHalfAway (x : Int) (d : Nat) : Int :=
  if 0 ≤ x then (2 * x + d) / (2 * d) else -((2 * -x + d) / (2 * d))

/-- ⌈a / b⌉. -/
def ceilDiv (a b : Nat) : Nat := (a + b - 1) / b

def insertSorted (x : Int) : List Int → List Int
  | [] => [x]
  | y :: l => if x ≤ y then x :: y :: l else y :: insertSorted x l

def sortInts : List Int → List Int
  | [] => []
  | x :: l => insertSorted x (sortInts l)

/-- Median of sorted values: the middle one, or the mean of the two middle ones truncated toward zero. -/
def midOf (l : List Int) : Option Int :=
  match l.length with
  | 0 => none
  | n + 1 =>
    if (n + 1) % 2 = 1 then l[(n + 1) / 2]?
    else some (((l.getD ((n + 1) / 2 - 1) 0) + (l.getD ((n + 1) / 2) 0)).tdiv 2)

/-- The median of the values, none of an empty list. -/
def median (l : List Int) : Option Int := midOf (sortInts l)

/-- Serial comparison: a is newer than b when (a − b) mod 256 lies between 1 and 127. -/
def newer (a b : BitVec 8) : Bool := 1 ≤ (a - b).toNat && (a - b).toNat ≤ 127

/-- Whole ms since `t`. -/
def elapsedMs (now t : Nat) : Nat := (now - t) / 1000

/-- Whole ms since `t` as a 16-bit count reads (R36, R176): it stops at 65535. -/
def elapsed16 (now t : Nat) : Nat := min Config.elapsedLimit (elapsedMs now t)

/-- Remaining time in ms, 0 when the timer is stopped (R176); a part of a ms counts as one (log 25). -/
def remainingMs (now : Nat) : Option Nat → Nat
  | none => 0
  | some t => ceilDiv (t - now) 1000

/-- The timer is running and its time has come. -/
def isDue (now : Nat) : Option Nat → Bool
  | none => false
  | some t => t ≤ now

/-! ## Bytes, low byte first (spec/00 Byte order) -/

def byteOf (n : Nat) : Byte := BitVec.ofNat 8 n

def le16 (n : Nat) : List Byte := [byteOf n, byteOf (n / 256)]

def le24 (n : Nat) : List Byte := [byteOf n, byteOf (n / 256), byteOf (n / 65536)]

def le32 (n : Nat) : List Byte := [byteOf n, byteOf (n / 256), byteOf (n / 65536), byteOf (n / 16777216)]

/-- Two's complement in 16 bits. -/
def leInt16 (i : Int) : List Byte := le16 (i % 65536).toNat

def leInt32 (i : Int) : List Byte := le32 (i % 4294967296).toNat

def byteAt (l : List Byte) (i : Nat) : Nat := (l.getD i 0).toNat

def u16At (l : List Byte) (i : Nat) : Nat := byteAt l i + 256 * byteAt l (i + 1)

def u24At (l : List Byte) (i : Nat) : Nat := u16At l i + 65536 * byteAt l (i + 2)

/-- The value of a two's complement field of the given modulus. -/
def signed (modulus n : Nat) : Int := if 2 * n < modulus then n else (n : Int) - modulus

def i16At (l : List Byte) (i : Nat) : Int := signed 65536 (u16At l i)

def bitNat (b : Bool) (i : Nat) : Nat := if b then 2 ^ i else 0

/-! ## CRC-16 (spec/00, R174): polynomial 1021h, initial FFFFh, not inverted -/

def crcBit (c : Nat) : Nat :=
  if c.testBit 15 then ((c <<< 1) ^^^ 0x1021) % 65536 else (c <<< 1) % 65536

/-- One byte, most significant bit first. -/
def crcByte (c : Nat) (b : Byte) : Nat :=
  crcBit (crcBit (crcBit (crcBit (crcBit (crcBit (crcBit (crcBit (c ^^^ (b.toNat <<< 8)))))))))

def crc16 (l : List Byte) : Nat := l.foldl crcByte 0xFFFF

/-! ## Free order (log 2, log 3) -/

/-- The list's elements in the order the free places `key` give. -/
def shuffle {α : Type} (key : Nat → Nat) : List α → List α
  | [] => []
  | a :: l => (shuffle key l).insertIdx (key l.length % (l.length + 1)) a

end Sys2Proof.Machine
end

