-- ==== Sys2Proof/Machine/Ops.lean ====
section
/-! DEFINITION. Named operations over the store, the registers of the blocks and the update list: every other file
reads and writes State through these. -/

namespace Sys2Proof.Machine

/-! ## Resets -/

/-- The part is held: power-on reset or RESET_N is in force. -/
def State.resetHeld (s : State) : Bool := s.resets.powerOn || s.resets.resetN

/-! ## The store's bytes -/

/-- The byte at an address; an unlisted address reads 00h. -/
def Memory.read : Memory → Nat → Byte
  | [], _ => 0
  | (a, b) :: m, k => if k = a then b else Memory.read m k

/-- The byte `v` at address `k`, keeping the canonical form: writing 00h removes the entry. -/
def Memory.write : Memory → Nat → Byte → Memory
  | [], k, v => if v = 0 then [] else [(k, v)]
  | (a, b) :: m, k, v =>
    if k < a then (if v = 0 then (a, b) :: m else (k, v) :: (a, b) :: m)
    else if k = a then (if v = 0 then m else (k, v) :: m)
    else (a, b) :: Memory.write m k v

/-- Consecutive bytes from an address up. -/
def Memory.writeAll (m : Memory) (k : Nat) : List Byte → Memory
  | [] => m
  | v :: l => (m.write k v).writeAll (k + 1) l

/-- `n` consecutive bytes. -/
def Memory.bytes (m : Memory) (k : Nat) : Nat → List Byte
  | 0 => []
  | n + 1 => m.read k :: m.bytes (k + 1) n

def Memory.u8 (m : Memory) (k : Nat) : Nat := (m.read k).toNat
def Memory.u16 (m : Memory) (k : Nat) : Nat := m.u8 k + 256 * m.u8 (k + 1)
def Memory.u24 (m : Memory) (k : Nat) : Nat := m.u16 k + 65536 * m.u8 (k + 2)
def Memory.i32 (m : Memory) (k : Nat) : Int := signed 4294967296 (m.u24 k + 16777216 * m.u8 (k + 3))

/-! ## Registers of the blocks -/

def State.setFiu (s : State) (x : Fiu) : State := { s with fiu := x }
def State.setLiu (s : State) (x : Liu) : State := { s with liu := x }
def State.setSvt (s : State) (x : Svt) : State := { s with svt := x }
def State.setInc (s : State) (x : Inc) : State := { s with inc := x }
def State.setTal (s : State) (x : Tal) : State := { s with tal := x }
def State.setFch (s : State) (x : Fch) : State := { s with fch := x }
def State.setSq (s : State) (x : Sq) : State := { s with sq := x }
def State.setOrd (s : State) (x : Ord) : State := { s with ord := x }
def State.setSpt (s : State) (x : Spt) : State := { s with spt := x }
def State.setCst (s : State) (x : Cst) : State := { s with cst := x }
def State.setSignals (s : State) (x : Signals) : State := { s with signals := x }
def State.setDraws (s : State) (n : Nat) : State := { s with draws := n }

/-- Asks for a plan computation before the event ends (R108). -/
def State.wantPlan (s : State) : State := s.setSignals { s.signals with plan := true }
/-- Asks for own availability to be formed (R94). -/
def State.wantAvail (s : State) : State := s.setSignals { s.signals with avail := true }
/-- Asks for an INCIDENT frame (R68). -/
def State.wantIncident (s : State) : State := s.setSignals { s.signals with incident := true }
/-- Asks for a SECTION_REPORT (R33). -/
def State.wantReport (s : State) : State := s.setSignals { s.signals with report := true }

def State.fan (s : State) (f : FanId) : Fan := s.fch.fans[f]

def State.modFan (s : State) (f : FanId) (g : Fan → Fan) : State :=
  s.setFch { s.fch with fans := s.fch.fans.set f (g s.fch.fans[f]) }

def State.fanIn (s : State) (f : FanId) : FanInput := s.fiu.fans[f]

def State.modFanIn (s : State) (f : FanId) (g : FanInput → FanInput) : State :=
  s.setFiu { s.fiu with fans := s.fiu.fans.set f (g s.fiu.fans[f]) }

def State.line (s : State) : LineId → Line
  | .l1 => s.liu.l1
  | .l2 => s.liu.l2

def State.setLine (s : State) (l : LineId) (x : Line) : State :=
  match l with
  | .l1 => s.setLiu { s.liu with l1 := x }
  | .l2 => s.setLiu { s.liu with l2 := x }

def State.modLine (s : State) (l : LineId) (g : Line → Line) : State := s.setLine l (g (s.line l))

/-- Section k's place in the table, k in 1..96. -/
def entryIdx (k : Nat) : Fin 96 := Fin.ofNat 96 (k - 1)

def State.entry (s : State) (k : Nat) : Entry := s.svt.entries[entryIdx k]

def State.modEntry (s : State) (k : Nat) (g : Entry → Entry) : State :=
  s.setSvt { s.svt with entries := s.svt.entries.set (entryIdx k) (g s.svt.entries[entryIdx k]) }

/-- Gateway g's place in the table, g in 97..100. -/
def gatewayIdx (g : Nat) : Fin 4 := Fin.ofNat 4 (g - 97)

def State.gateway (s : State) (g : Nat) : Gateway := s.svt.gateways[gatewayIdx g]

def State.modGateway (s : State) (g : Nat) (h : Gateway → Gateway) : State :=
  s.setSvt { s.svt with gateways := s.svt.gateways.set (gatewayIdx g) (h s.svt.gateways[gatewayIdx g]) }

/-- All fans, F1 to F4. -/
def allFans : List FanId := [0, 1, 2, 3]

/-! ## The running copy -/

/-- The settings before any LOAD has passed: no block that reads them acts then. -/
def Settings.blank : Settings :=
  { n := 0, vt := 0, kp := 0, ki := 0, initialDemand := 0, u := 0, d := 0, rule := .nearPortal, dflt := .towardB
    startsLimit := 0, exposure := 0, smokePre := 0, smokeAlarm := 0, smokeConfirm := 0, heatPre := 0
    heatAlarm := 0, riseAlarm := 0, guard := 0, own := 0, group := 0, installed := 0
    fans := Vector.replicate 4 ⟨0, 0, 0, 0⟩, startLimit := 0, sMin := 0
    calAnemo := ⟨0, 0⟩, calSmoke := ⟨0, 0⟩, calTemp := ⟨0, 0⟩ }

/-- The settings in force. -/
def State.cfg (s : State) : Settings :=
  match s.running with
  | some r => r.settings
  | none => .blank

/-- The own section index s. -/
def State.own (s : State) : Nat := s.cfg.own

/-- The node is in LISTEN or RUN, where its blocks act. -/
def State.active (s : State) : Bool := s.life == .listen || s.life == .run

/-- Fans installed: the running setting, and in CONFIG_INVALID the store byte limited to its range (R12, log 22). -/
def State.fansInstalled (s : State) : Nat :=
  match s.running with
  | some r => r.settings.installed
  | none => clampNat (s.cst.store.u8 0x5C) 0 4

def State.installed (s : State) (f : FanId) : Bool := f.val < s.fansInstalled

/-- Any line UP (R27). -/
def State.anyUp (s : State) : Bool := s.liu.l1.state == .up || s.liu.l2.state == .up

/-! ## Store updates (R167) -/

/-- Bytes of an item. -/
def Item.width : Item → Nat
  | .declCounter | .startCounter _ | .faultCounter _ | .runMinutes _ => 3
  | .latch _ | .ownInhibit => 1

/-- Store address of an item (R177). -/
def Item.addr : Item → Nat
  | .declCounter => 0xC8
  | .startCounter f => 0xD0 + 9 * f.val
  | .faultCounter f => 0xD3 + 9 * f.val
  | .runMinutes f => 0xD6 + 9 * f.val
  | .latch f => 0xC1 + f.val
  | .ownInhibit => 0xC5

/-- The bytes a value of the item is programmed as. -/
def Item.bytes (i : Item) (v : Nat) : List Byte := if i.width = 3 then le24 v else [byteOf v]

/-- A request replaces the item's waiting value in its place, or is appended (R167). -/
def putUpdate (i : Item) (v : Nat) : List (Item × Nat) → List (Item × Nat)
  | [] => [(i, v)]
  | (j, w) :: l => if j = i then (i, v) :: l else (j, w) :: putUpdate i v l

def State.request (s : State) (i : Item) (v : Nat) : State :=
  s.setCst { s.cst with updates := putUpdate i v s.cst.updates }

/-- The engine, when free, takes the oldest item of the update list, else the oldest write-queue entry (R165). -/
def State.kickEngine (s : State) : State :=
  match s.cst.engine with
  | some _ => s
  | none =>
    match s.cst.updates with
    | (i, v) :: l =>
      s.setCst { s.cst with updates := l, engine := some ⟨.item i v, s.now + i.width * Config.programByte⟩ }
    | [] =>
      match s.spt.queue with
      | [] => s
      | _ :: _ => s.setCst { s.cst with engine := some ⟨.portEntry, s.now + Config.programByte⟩ }

/-! ## Free values -/

/-- A free choice of which of two neighbours acts first, and the state with the draw counted. -/
def State.drawBool (s : State) : Bool := Config.freeBool s.draws
def State.counted (s : State) : State := s.setDraws (s.draws + 1)

end Sys2Proof.Machine
end

