-- ==== Sys2Proof/Machine/Operands.lean ====
section
/-! DEFINITION. The operand forms: enumerated codes (R173), frame bodies and their payloads (R174), and the content
checks of each kind (R39, R71, R139, R152). A payload is decoded here, once, and encoded here, once. -/

namespace Sys2Proof.Machine

/-! ## Codes (R173) -/

def Direction.code : Direction → Nat
  | .towardB => 0 | .towardA => 1

def directionOf : Nat → Option Direction
  | 0 => some .towardB | 1 => some .towardA | _ => none

def Direction.flip : Direction → Direction
  | .towardB => .towardA | .towardA => .towardB

def Life.code : Life → Nat
  | .load => 0 | .listen => 1 | .run => 2 | .configInvalid => 3

def LoadCause.code : LoadCause → Nat
  | .none => 0 | .tunnelCrc => 1 | .nodeCrc => 2 | .tunnelSize => 3 | .sectionIndex => 4

def IncState.code : IncState → Nat
  | .quiet => 0 | .alert => 1 | .declared => 2 | .controlled => 3 | .holding => 4

def incStateOf : Nat → Option IncState
  | 0 => some .quiet | 1 => some .alert | 2 => some .declared | 3 => some .controlled | 4 => some .holding
  | _ => none

def DetState.code : DetState → Nat
  | .normal => 0 | .preAlarm => 1 | .confirming => 2 | .alarm => 3 | .outOfService => 4

def detStateOf : Nat → Option DetState
  | 0 => some .normal | 1 => some .preAlarm | 2 => some .confirming | 3 => some .alarm | 4 => some .outOfService
  | _ => none

def AnemoState.code : AnemoState → Nat
  | .ok => 0 | .stuckLow => 1 | .stuckHigh => 2

def anemoStateOf : Nat → Option AnemoState
  | 0 => some .ok | 1 => some .stuckLow | 2 => some .stuckHigh | _ => none

def LineState.code : LineState → Nat
  | .up => 0 | .quiet => 1 | .down => 2

def EntryState.code : EntryState → Nat
  | .empty => 0 | .fresh => 1 | .stale => 2 | .lost => 3

def ClaimState.code : ClaimState → Nat
  | .wait => 0 | .go => 1 | .done => 2 | .abandon => 3

def claimStateOf : Nat → Option ClaimState
  | 0 => some .wait | 1 => some .go | 2 => some .done | 3 => some .abandon | _ => none

def OwnClaim.code : OwnClaim → Nat
  | .none => 0 | .wait => 1 | .go => 2

def FanState.code : FanState → Nat
  | .off => 1 | .braking => 2 | .startWait => 3 | .starting => 4 | .running => 5 | .stopping => 6 | .fault => 7
  | .lockedOut => 8

def FaultCause.code : FaultCause → Nat
  | .none => 0 | .windmill => 1 | .drive => 2 | .start => 3 | .speedLoss => 4 | .direction => 5

def LockoutCause.code : LockoutCause → Nat
  | .none => 0 | .thirdFault => 1 | .exposure => 2 | .latchedAtStart => 3

def DirectionRule.code : DirectionRule → Nat
  | .fixedA => 0 | .fixedB => 1 | .followDraught => 2 | .nearPortal => 3

def directionRuleOf : Nat → Option DirectionRule
  | 0 => some .fixedA | 1 => some .fixedB | 2 => some .followDraught | 3 => some .nearPortal | _ => none

def OrderKind.code : OrderKind → Nat
  | .declare => 1 | .forceDirection => 2 | .standDown => 3 | .inhibit => 4 | .release => 5 | .ventRun => 6
  | .ventStop => 7

def orderKindOf : Nat → Option OrderKind
  | 1 => some .declare | 2 => some .forceDirection | 3 => some .standDown | 4 => some .inhibit
  | 5 => some .release | 6 => some .ventRun | 7 => some .ventStop | _ => none

/-! ## Frames (R21) -/

/-- The four frame kinds on the lines. -/
inductive FrameKind where
  | sectionReport | incident | startClaim | order
  deriving DecidableEq, Repr

def FrameKind.code : FrameKind → Nat
  | .sectionReport => 0x1A | .incident => 0x2B | .startClaim => 0x3C | .order => 0x4D

def frameKindOf : Nat → Option FrameKind
  | 0x1A => some .sectionReport | 0x2B => some .incident | 0x3C => some .startClaim | 0x4D => some .order
  | _ => none

/-- Payload bytes of a kind. -/
def FrameKind.payloadBytes : FrameKind → Nat
  | .sectionReport => 30 | .incident => 18 | .startClaim => 4 | .order => 9

def TxKind.frameKind : TxKind → FrameKind
  | .report => .sectionReport | .incident => .incident | .claim => .startClaim

/-- The check code over header and payload (R21, R174). -/
def frameCheck (k : FrameKind) (origin seq flags : Byte) (payload : List Byte) : Nat :=
  crc16 (byteOf k.code :: origin :: seq :: flags :: payload)

/-- Section nodes 1..N (spec/00 Stations). -/
def isSection (n k : Nat) : Bool := 1 ≤ k && k ≤ n

/-- Gateways 97..100. -/
def isGateway (g : Nat) : Bool := 97 ≤ g && g ≤ 100

/-- A valid station in a tunnel of n sections. -/
def isStation (n k : Nat) : Bool := isSection n k || isGateway k

/-- Origins valid for a kind (R21). -/
def FrameKind.originOk (n o : Nat) : FrameKind → Bool
  | .sectionReport | .startClaim => isSection n o
  | .incident => isStation n o
  | .order => isGateway o

/-! ## SECTION_REPORT -/

/-- The 30 payload bytes; absent fields and bits without a field are 0 (R174). -/
def encodeReport (r : Report) : List Byte :=
  [ byteOf (r.life.code % 4 + 4 * r.state.code + bitNat r.velocity.isSome 5 + bitNat r.smoke.isSome 6
      + bitNat r.temperature.isSome 7),
    byteOf (r.anemo.code + bitNat r.smokeDead 2 + bitNat r.tempDead 3 + bitNat r.summary.isSome 4
      + bitNat r.lastOrder.isSome 5) ]
  ++ leInt16 (r.velocity.getD 0) ++ leInt16 (r.smoke.getD 0) ++ leInt16 (r.temperature.getD 0)
  ++ [ byteOf r.callCount,
       byteOf (r.dets.smoke.code + 16 * r.dets.call.code),
       byteOf (r.dets.heat.code + 16 * r.dets.operator.code),
       byteOf (r.installed + 16 * r.healthy),
       byteOf (r.running + bitNat r.lead 4 + bitNat r.inhibit 5 + bitNat r.vent 6 + bitNat r.clamped 7) ]
  ++ le16 r.availB ++ le16 r.availA ++ leInt16 r.thrust ++ [byteOf r.group]
  ++ (match r.summary with
      | some x => [byteOf x.id.station, x.id.number, byteOf (x.severity + bitNat (x.dir == .towardA) 7), x.version]
      | none => [0, 0, 0, 0])
  ++ (match r.lastOrder with
      | some (g, m) => [byteOf g, m]
      | none => [0, 0])
  ++ le16 r.tag ++ [0, 0]

def inRange (x lo hi : Int) : Bool := lo ≤ x && x ≤ hi

/-- An optional field: absent, whatever its bytes hold, when its presence mark is clear (R174). -/
def field (present : Bool) (x : Int) : Option Int := if present then some x else none

def optInRange (x : Option Int) (lo hi : Int) : Bool :=
  match x with
  | none => true
  | some v => inRange v lo hi

/-- The summary of a report. -/
def summaryAt (p : List Byte) : Summary :=
  { id := ⟨byteAt p 20, p.getD 21 0⟩, severity := byteAt p 22 % 8
    dir := if (byteAt p 22).testBit 7 then .towardA else .towardB, version := p.getD 23 0 }

/-- The relations of R39 between the fields of a decoded report. -/
def Report.contentOk (r : Report) : Bool :=
  r.life == .run && r.healthy ≤ r.installed && r.installed ≤ 4 && r.running ≤ r.healthy
  && (match r.summary with
      | none => true
      | some x => 1 ≤ x.severity && x.severity ≤ 4)
  && (match r.lastOrder with
      | none => true
      | some (g, _) => isGateway g)
  && 1 ≤ r.group && r.group ≤ 16 && r.availB ≤ 1284 && r.availA ≤ 1284 && inRange r.thrust (-1284) 1284
  && optInRange r.velocity (-2000) 2000 && optInRange r.smoke 0 20000 && optInRange r.temperature (-40) 1200
  && r.dets.call != .confirming && r.dets.heat != .confirming && r.dets.operator != .confirming

/-- A report's fields, when every code in it is one of its defined values. -/
def decodeReport (p : List Byte) : Option Report :=
  match incStateOf (byteAt p 0 / 4 % 8), anemoStateOf (byteAt p 1 % 4), detStateOf (byteAt p 9 % 16),
      detStateOf (byteAt p 9 / 16), detStateOf (byteAt p 10 % 16), detStateOf (byteAt p 10 / 16) with
  | some st, some an, some sm, some ca, some he, some op =>
    some
      { life := if byteAt p 0 % 4 = 2 then .run else .load
        state := st
        velocity := field ((byteAt p 0).testBit 5) (i16At p 2)
        smoke := field ((byteAt p 0).testBit 6) (u16At p 4)
        temperature := field ((byteAt p 0).testBit 7) (i16At p 6)
        anemo := an
        smokeDead := (byteAt p 1).testBit 2
        tempDead := (byteAt p 1).testBit 3
        callCount := byteAt p 8
        dets := ⟨sm, ca, he, op⟩
        installed := byteAt p 11 % 16
        healthy := byteAt p 11 / 16
        running := byteAt p 12 % 16
        lead := (byteAt p 12).testBit 4
        inhibit := (byteAt p 12).testBit 5
        vent := (byteAt p 12).testBit 6
        clamped := (byteAt p 12).testBit 7
        availB := u16At p 13
        availA := u16At p 15
        thrust := i16At p 17
        group := byteAt p 19
        summary := if (byteAt p 1).testBit 4 then some (summaryAt p) else none
        lastOrder := if (byteAt p 1).testBit 5 then some (byteAt p 24, p.getD 25 0) else none
        tag := u16At p 26 }
  | _, _, _, _, _, _ => none

/-- A report that passes the content check of R39. -/
def parseReport (p : List Byte) : Option Report :=
  match decodeReport p with
  | some r => if r.contentOk then some r else none
  | none => none

/-! ## INCIDENT -/

/-- What an INCIDENT frame carries that a receiver uses (R68, R88). -/
structure IncidentMsg where
  id       : Identity
  severity : Nat
  triple   : Triple
  locus    : Nat
  declarer : Bool
  lead     : Bool
  demand   : Option (Nat × BitVec 8)
  deriving DecidableEq, Repr

/-- The 18 payload bytes from the held record, the roles and the control velocity (R68, R88). -/
def encodeIncident (h : Held) (declarer lead : Bool) (vc : Option Int) (st : IncState) : List Byte :=
  let t := match h.demand with
    | some d => if lead then d.t else 0
    | none => 0
  let seq : Byte := match h.demand with
    | some { source := some src, .. } => if lead then src.seq else 0
    | _ => 0
  let v := if lead then vc else none
  [byteOf h.id.station, h.id.number, byteOf h.severity, byteOf h.triple.dir.code, h.triple.version,
    byteOf h.triple.source, byteOf h.locus,
    byteOf (bitNat declarer 0 + bitNat lead 1 + bitNat (lead && h.demand.isSome) 2 + bitNat v.isSome 3)]
  ++ le24 t ++ [seq] ++ leInt16 (v.getD 0) ++ [byteOf st.code, 0, 0, 0]

/-- The content check of R71, for a frame of origin `o` in a tunnel of `n` sections. -/
def incidentOk (n o : Nat) (p : List Byte) : Bool :=
  let station := byteAt p 0
  let severity := byteAt p 2
  let roles := byteAt p 7
  isStation n station && isStation n (byteAt p 5) && 1 ≤ severity && severity ≤ 4
  && ((severity == 4) == isGateway station)
  && byteAt p 3 ≤ 1
  && isSection n (byteAt p 6)
  && (!roles.testBit 0 || o == station)
  && (!roles.testBit 1 || !isGateway o)
  && (roles.testBit 2 == roles.testBit 1)

def parseIncident (n o : Nat) (p : List Byte) : Option IncidentMsg :=
  if incidentOk n o p then
    some
      { id := ⟨byteAt p 0, p.getD 1 0⟩
        severity := byteAt p 2
        triple := ⟨if byteAt p 3 = 1 then .towardA else .towardB, p.getD 4 0, byteAt p 5⟩
        locus := byteAt p 6
        declarer := (byteAt p 7).testBit 0
        lead := (byteAt p 7).testBit 1
        demand := if (byteAt p 7).testBit 2 then some (u24At p 8, p.getD 11 0) else none }
  else none

/-! ## START_CLAIM -/

/-- The four fields of a claim frame (spec/08 8.1). -/
structure ClaimMsg where
  group  : Nat
  fan    : Nat
  number : BitVec 8
  state  : ClaimState
  deriving DecidableEq, Repr

def encodeClaim (m : ClaimMsg) : List Byte := [byteOf m.group, byteOf m.fan, m.number, byteOf m.state.code]

/-- The content check of R139. -/
def parseClaim (p : List Byte) : Option ClaimMsg :=
  match claimStateOf (byteAt p 3) with
  | some st =>
    if 1 ≤ byteAt p 0 && byteAt p 0 ≤ 16 && 1 ≤ byteAt p 1 && byteAt p 1 ≤ 4 then
      some ⟨byteAt p 0, byteAt p 1, p.getD 2 0, st⟩
    else none
  | none => none

/-! ## ORDER -/

/-- An order with its parameters (spec/09 9.1). A DECLARE with no direction asks for it by rule. -/
inductive Order where
  | declare (locus : Nat) (dir : Option Direction)
  | forceDirection (id : Identity) (dir : Direction)
  | standDown (id : Identity)
  | inhibit (first last : Nat)
  | release (first last : Nat)
  | ventRun (first last : Nat) (dir : Direction) (speed duration : Nat)
  | ventStop (first last : Nat)
  deriving DecidableEq, Repr

/-- A range of sections of this tunnel (R152). -/
def rangeOk (n first last : Nat) : Bool := isSection n first && isSection n last && first ≤ last

/-- The content check of R152; none is a refusal. `p` holds payload bytes 2..8. -/
def parseOrder (n : Nat) (p : List Byte) : OrderKind → Option Order
  | .declare =>
    if isSection n (byteAt p 0) then
      match byteAt p 1 with
      | 0 => some (.declare (byteAt p 0) (some .towardB))
      | 1 => some (.declare (byteAt p 0) (some .towardA))
      | 2 => some (.declare (byteAt p 0) none)
      | _ => none
    else none
  | .forceDirection =>
    match directionOf (byteAt p 2) with
    | some d => if isStation n (byteAt p 0) then some (.forceDirection ⟨byteAt p 0, p.getD 1 0⟩ d) else none
    | none => none
  | .standDown => if isStation n (byteAt p 0) then some (.standDown ⟨byteAt p 0, p.getD 1 0⟩) else none
  | .inhibit => if rangeOk n (byteAt p 0) (byteAt p 1) then some (.inhibit (byteAt p 0) (byteAt p 1)) else none
  | .release => if rangeOk n (byteAt p 0) (byteAt p 1) then some (.release (byteAt p 0) (byteAt p 1)) else none
  | .ventStop => if rangeOk n (byteAt p 0) (byteAt p 1) then some (.ventStop (byteAt p 0) (byteAt p 1)) else none
  | .ventRun =>
    match directionOf (byteAt p 2) with
    | some d =>
      if rangeOk n (byteAt p 0) (byteAt p 1) && 20 ≤ byteAt p 3 && byteAt p 3 ≤ 100 && 1 ≤ u16At p 4 then
        some (.ventRun (byteAt p 0) (byteAt p 1) d (byteAt p 3) (u16At p 4))
      else none
    | none => none

end Sys2Proof.Machine
end

