-- ==== Sys2Proof/Machine/View.lean ====
section
/-! DEFINITION. The Section View (spec/03) and what is read from it: ages and line patterns, the two filters (R47),
the span and the section orders (R83, R84, R102), the view-lead, and the own entry as its blocks write it (R44). -/

namespace Sys2Proof.Machine

/-! ## Entries -/

/-- Age in ms; 65535 while EMPTY (R36); held at 0 for the own entry (R45). -/
def State.age (s : State) (k : Nat) : Nat :=
  if (s.entry k).state = .empty then Config.elapsedLimit
  else if k = s.own then 0
  else elapsed16 s.now (s.entry k).writtenAt

/-- Heard within 6000 ms (R42); absent is not within. -/
def heardRecently (now : Nat) : Option Nat → Bool
  | none => false
  | some t => elapsedMs now t ≤ Config.staleMs

/-- Line pattern code (R42, R173): 0 NEITHER, 1 L1_ONLY, 2 L2_ONLY, 3 BOTH. -/
def Entry.pattern (e : Entry) (now : Nat) : Nat :=
  bitNat (heardRecently now e.heard1) 0 + bitNat (heardRecently now e.heard2) 1

/-- Sections 1..N. -/
def Settings.sections (c : Settings) : List Nat := (List.range c.n).map (· + 1)

/-! ## Filters (R47) -/

def Entry.tagFresh (e : Entry) : Bool := e.state == .fresh && e.tagMatch

/-- A summary agrees with the held record: same identity and direction version, or both absent. -/
def agrees : Option Summary → Option Held → Bool
  | none, none => true
  | some x, some h => x.id == h.id && x.version == h.triple.version
  | _, _ => false

def State.countable (s : State) (k : Nat) : Bool :=
  (s.entry k).tagFresh && agrees (s.entry k).report.summary s.inc.held

def State.countableWithVelocity (s : State) (k : Nat) : Bool :=
  s.countable k && (s.entry k).report.velocity.isSome

/-- The two conditions whose change is a view change (R48). R40 has any change of either filter of R47 signalled, so of
tag-fresh too; a change of tag-fresh alone, which changes neither of R48's conditions, is no view change here: it has no
lead re-evaluated and asks for no plan (the model's choice: log 54). -/
def State.viewConditions (s : State) (k : Nat) : Bool × Bool := (s.countable k, s.countableWithVelocity k)

/-! ## Span and orders -/

/-- lo of the exclusion span (R83). -/
def spanLo (c : Settings) (dir : Direction) (locus : Nat) : Nat :=
  match dir with
  | .towardB => max 1 (locus - c.u)
  | .towardA => max 1 (locus - c.d)

/-- hi of the exclusion span (R83). -/
def spanHi (c : Settings) (dir : Direction) (locus : Nat) : Nat :=
  match dir with
  | .towardB => min c.n (locus + c.d)
  | .towardA => min c.n (locus + c.u)

def Held.lo (h : Held) (c : Settings) : Nat := spanLo c h.triple.dir h.locus
def Held.hi (h : Held) (c : Settings) : Nat := spanHi c h.triple.dir h.locus

/-- Section k lies in the span of the record. -/
def Held.inSpan (h : Held) (c : Settings) (k : Nat) : Bool := h.lo c ≤ k && k ≤ h.hi c

/-- Sections 1..lo − 1, rising. -/
def Held.below (h : Held) (c : Settings) : List Nat := (List.range (h.lo c - 1)).map (· + 1)

/-- Sections hi + 1..N, rising. -/
def Held.above (h : Held) (c : Settings) : List Nat := (List.range (c.n - h.hi c)).map (· + (h.hi c + 1))

/-- The upstream order, nearest the span first (R84). -/
def Held.upstream (h : Held) (c : Settings) : List Nat :=
  match h.triple.dir with
  | .towardB => (h.below c).reverse
  | .towardA => h.above c

/-- The rank order (R102). -/
def Held.rank (h : Held) (c : Settings) : List Nat :=
  match h.triple.dir with
  | .towardB => h.below c ++ (h.above c).reverse
  | .towardA => (h.above c).reverse ++ h.below c

/-- Of two sections of the upstream order, a is nearer the span than b (R84). -/
def Held.nearer (h : Held) (a b : Nat) : Bool :=
  match h.triple.dir with
  | .towardB => b < a
  | .towardA => a < b

/-- The view-lead (R84). -/
def State.viewLead (s : State) : Option Nat :=
  match s.inc.held with
  | none => none
  | some h => (h.upstream s.cfg).find? s.countableWithVelocity

/-! ## Thrust of the own fans -/

/-- A fan's directional rating (R93). -/
def FanSettings.rating (x : FanSettings) : Direction → Nat
  | .towardB => x.thrust
  | .towardA => x.thrust * x.reverse / 100

/-- A fan's derated thrust (R93). -/
def State.derated (s : State) (f : FanId) (d : Direction) : Nat :=
  s.cfg.fans[f].rating d * 293 / (273 + s.tal.derating)

/-- A fan is counted (R94). -/
def State.isCounted (s : State) (f : FanId) : Bool :=
  s.installed f && (s.fan f).state != .fault && (s.fan f).state != .lockedOut && !s.ord.inhibit

/-- Own availability in a direction (R94). -/
def State.availability (s : State) (d : Direction) : Nat :=
  ((allFans.filter s.isCounted).map (s.derated · d)).sum

/-- Run output asserted (R115). -/
def FanState.driven : FanState → Bool
  | .starting | .running => true
  | .off | .braking | .startWait | .stopping | .fault | .lockedOut => false

/-- Fans healthy and fans running (R46). -/
def State.fansHealthy (s : State) : Nat :=
  (allFans.filter fun f => s.installed f && (s.fan f).state != .fault && (s.fan f).state != .lockedOut).length

def State.fansRunning (s : State) : Nat :=
  (allFans.filter fun f => s.installed f && (s.fan f).state.driven).length

/-- One fan's present thrust, signed (R46). -/
def State.fanThrust (s : State) (f : FanId) : Int :=
  if s.installed f && (s.fan f).state == .running then
    let t : Nat := s.derated f (s.fan f).cmdDir * (s.fan f).cmdSpeed ^ 2 / 10000
    match (s.fan f).cmdDir with
    | .towardB => t
    | .towardA => -t
  else 0

/-- Present thrust (R46). -/
def State.presentThrust (s : State) : Int := (allFans.map s.fanThrust).sum

/-! ## The own entry (R44, R45) -/

/-- The summary of the held record: what is applied, not what is pending (R44). -/
def Held.summary (h : Held) : Summary := ⟨h.id, h.severity, h.triple.dir, h.triple.version⟩

/-- The own entry's fields as their blocks hold them now; the observation's fields as last written. The config clamped flag
is set by any clamp flag, that of a replaced enumerated setting too (R169), where R44 names numeric settings (DEDUCED:
log 35). -/
def State.ownReport (s : State) : Report :=
  { (s.entry s.own).report with
    life := s.life
    state := s.inc.state
    dets := ⟨s.inc.smoke.state, s.inc.call.state, s.inc.heat.state, s.inc.operator.state⟩
    installed := s.cfg.installed
    healthy := s.fansHealthy
    running := s.fansRunning
    lead := s.inc.lead
    inhibit := s.ord.inhibit
    vent := s.ord.vent.isSome
    clamped := match s.running with
      | some r => !r.clamps.isEmpty
      | none => false
    availB := (s.tal.avail.getD (0, 0)).1
    availA := (s.tal.avail.getD (0, 0)).2
    thrust := s.presentThrust
    group := s.cfg.group
    summary := s.inc.held.map Held.summary
    lastOrder := s.ord.lastOrder
    tag := match s.running with
      | some r => r.tag
      | none => 0 }

/-- The changes that hand over a report at once (R33, R45). -/
def Report.reportable (a b : Report) : Bool :=
  a.life != b.life || a.state != b.state || a.summary != b.summary || a.running != b.running
  || a.inhibit != b.inhibit

/-- Writes the own entry's fields from their blocks, and signals the report timer of the changes of R45. -/
def State.refreshOwn (s : State) : State :=
  let r := s.ownReport
  let s' := s.modEntry s.own fun e => { e with report := r }
  if (s.entry s.own).report.reportable r then s'.wantReport else s'

end Sys2Proof.Machine
end

