-- ==== Sys2Proof/Machine/Flags.lean ====
section
/-! DEFINITION. Every derived flag and output: fan outputs and the PWM level (R15, R115), origin flags (R23, R174),
the effective lock word and the refusal of a write (R166), PRDY (R162, R165), the status bytes (R179), the
counter-full flags (R167). -/

namespace Sys2Proof.Machine

/-! ## Fan outputs -/

/-- Run, direction (true: toward portal A) and brake of a fan (R115). -/
structure Outputs where
  run   : Bool
  dirA  : Bool
  brake : Bool
  deriving DecidableEq, Repr

def Fan.outputs (x : Fan) : Outputs :=
  match x.state with
  | .off | .startWait | .fault | .lockedOut => ⟨false, false, false⟩
  | .braking => ⟨false, false, true⟩
  | .starting | .running => ⟨true, x.cmdDir == .towardA, false⟩
  | .stopping => ⟨false, x.cmdDir == .towardA, false⟩

/-- The outputs are released in LOAD and CONFIG_INVALID and for fans not installed (R114, R115). -/
def State.fanOutputs (s : State) (f : FanId) : Outputs :=
  if s.active && s.installed f then (s.fan f).outputs else ⟨false, false, false⟩

/-- The PWM output's level: high from the start of the period for duty · 100 µs (R15). -/
def State.pwmHigh (s : State) (f : FanId) : Bool :=
  !s.resetHeld && s.now - (s.fanIn f).periodFrom < (s.fanIn f).duty * 100

/-! ## Lines -/

/-- Origin flags: L1 state in bits 1:0, L2 state in bits 3:2 (R174). -/
def State.originFlags (s : State) : Byte := byteOf (s.liu.l1.state.code + 4 * s.liu.l2.state.code)

/-! ## The port -/

/-- The port cannot act: while RESET_N is low or power-on reset in force, and in LOAD (R162). -/
def State.portHeld (s : State) : Bool := s.resetHeld || s.life == .load

/-- An address of the store region (R175). -/
def isStoreAddr (a : BitVec 16) : Bool := a.toNat ≤ 0x3FF

/-- The cause for which a cycle of this function and direction must wait (R162, R165). -/
def State.mustWait (s : State) (fn : PortFn) (read : Bool) : Bool :=
  s.portHeld ||
  match fn, read with
  | .mode, _ => false
  | .pointer, true => false
  | .pointer, false => !s.spt.queue.isEmpty
  | .dataInc, true | .dataNoInc, true => isStoreAddr s.spt.rp && !s.spt.queue.isEmpty
  | .dataInc, false | .dataNoInc, false => Config.writeQueueLimit ≤ s.spt.queue.length

/-- PRDY: low while the cycle in progress must wait, and in reset and LOAD (R162); high while none is in progress (the
model's choice: log 42). -/
def State.prdy (s : State) : Bool :=
  match s.spt.cycle with
  | some c => !s.mustWait c.fn c.read
  | none => !s.portHeld

/-- The lock word with the lock word entries waiting in the write queue (R166). -/
def State.effectiveLock (s : State) : Byte :=
  s.spt.queue.foldl (fun w e => if e.1.toNat = 0xC0 then w ||| (e.2 &&& 7) else w) (s.cst.store.read 0xC0)

/-- A store address that carries an item a port write may name: settings, check codes, calibration, lock word,
latches (R166, R177, R178). -/
def writableItem (a : Nat) : Bool :=
  a ≤ 0x1A || (0x3E ≤ a && a ≤ 0x5C) || (0x60 ≤ a && a ≤ 0x77) || (0xBE ≤ a && a ≤ 0xC4)

/-- A lockout latch byte. -/
def isLatchAddr (a : Nat) : Bool := 0xC1 ≤ a && a ≤ 0xC4

/-- The address lies in a locked part of the configuration block (R166). -/
def isLocked (w : Byte) (a : Nat) : Bool :=
  (w.getLsbD 0 && a ≤ 0x3F)
  || (w.getLsbD 1 && 0x40 ≤ a && a ≤ 0x5C)
  || (w.getLsbD 2 && 0x60 ≤ a && a ≤ 0x77)
  || (w.getLsbD 1 && w.getLsbD 2 && 0xBE ≤ a && a ≤ 0xBF)

/-- A DATA write is refused (R166). -/
def State.writeRefused (s : State) (a : Nat) (data : Byte) (serviceEn : Bool) : Bool :=
  !serviceEn || !writableItem a || (isLatchAddr a && data != 0) || isLocked s.effectiveLock a

/-- Status byte 0 (R179). -/
def State.status0 (s : State) : Byte :=
  byteOf (s.spt.queue.length + bitNat s.spt.refused 4 + bitNat s.spt.serviceEn 5 + bitNat s.cst.engine.isSome 6
    + bitNat (s.life == .configInvalid) 7)

/-- Status byte 1 (R179). -/
def State.status1 (s : State) : Byte :=
  byteOf (bitNat s.spt.dual 0 + bitNat s.spt.select 1 + bitNat s.spt.phase 2)

/-! ## Counter-full flags (R167, R176) -/

def counterFull (m : Memory) (a : Nat) : Bool := m.u24 a == 16777215

def State.fullFlags (s : State) : Nat :=
  let m := s.cst.store
  bitNat (counterFull m Item.declCounter.addr) 0
  + (allFans.map fun f => bitNat (counterFull m (Item.startCounter f).addr) (1 + f.val)
      + bitNat (counterFull m (Item.faultCounter f).addr) (5 + f.val)
      + bitNat (counterFull m (Item.runMinutes f).addr) (9 + f.val)).sum

end Sys2Proof.Machine
end

