-- ==== Sys2Proof/Machine/Lines.lean ====
section
/-! DEFINITION. The Line Interface Unit's sending side (spec/02 2.3, 2.4): transmit slots, numbering, access by quiet
gap, the bytes sent, the three ends of an attempt, entering DOWN. -/

namespace Sys2Proof.Machine

/-! ## Slots (R22) -/

def Line.slot (x : Line) : TxKind → Slot
  | .report => x.report
  | .incident => x.incident
  | .claim => x.claim

def Line.setSlot (x : Line) (k : TxKind) (y : Slot) : Line :=
  match k with
  | .report => { x with report := y }
  | .incident => { x with incident := y }
  | .claim => { x with claim := y }

/-- Places a copy: in an empty slot, in place of a copy not in an attempt, or as the next frame (R22). -/
def Slot.place (y : Slot) (inAttempt : Bool) (c : Copy) : Slot :=
  match y.cur with
  | none => { cur := some c, nxt := none }
  | some _ => if inAttempt then { y with nxt := some c } else { cur := some c, nxt := none }

/-- The copy leaves and the next frame, if any, takes the slot (R22). -/
def Slot.advance (y : Slot) : Slot := { cur := y.nxt, nxt := none }

/-- The header a frame takes at its first attempt, written to each of its copies (R23). -/
def Copy.number (c : Copy) (id : Nat) (h : Header) : Copy := if c.id = id then { c with header := some h } else c

def Slot.number (y : Slot) (id : Nat) (h : Header) : Slot :=
  { cur := y.cur.map (·.number id h), nxt := y.nxt.map (·.number id h) }

def Line.number (x : Line) (k : TxKind) (id : Nat) (h : Header) : Line :=
  x.setSlot k ((x.slot k).number id h)

/-- A frame placed on one line: nothing on a DOWN line (R22). R22's cases do not name an occupied slot while an attempt of
another kind's copy is in progress on the line: the copy that waits is replaced then too (the model's choice: log 46). -/
def Line.offer (x : Line) (k : TxKind) (c : Copy) : Line :=
  if x.state = .down then x else x.setSlot k ((x.slot k).place (x.attempt == some k) c)

/-- A block hands the LIU a frame: a copy on each line that is not DOWN. In RUN only: in LISTEN the blocks hand over
no frame (R22, R35). -/
def State.handOver (s : State) (k : TxKind) (payload : List Byte) : State :=
  if s.life = .run then
    let c : Copy := ⟨s.liu.frames, payload, 0, none⟩
    s.setLiu { s.liu with
      l1 := s.liu.l1.offer k c
      l2 := s.liu.l2.offer k c
      frames := s.liu.frames + 1 }
  else s

/-! ## Access by quiet gap (R24) -/

/-- The frame in the occupied slot of the lowest class. -/
def Line.candidate (x : Line) : Option (TxKind × Copy) :=
  match x.incident.cur, x.claim.cur, x.report.cur with
  | some c, _, _ => some (.incident, c)
  | none, some c, _ => some (.claim, c)
  | none, none, some c => some (.report, c)
  | none, none, none => none

/-- Class gap of node s, in µs. -/
def classGap (own : Nat) : TxKind → Nat
  | .incident => 400
  | .claim => 600
  | .report => 800 + own % 16 * 100

/-- The candidate's required gap. -/
def requiredGap (own : Nat) (k : TxKind) (r : Nat) : Nat :=
  classGap own k + (if 1 ≤ r then r * 100 + own / 16 * 100 else 0)

/-- The header of a frame numbered now (R21, R23). -/
def State.header (s : State) (k : TxKind) (payload : List Byte) : Header :=
  { seq := s.liu.seq, flags := s.originFlags
    check := frameCheck k.frameKind (byteOf s.own) s.liu.seq s.originFlags payload }

/-- Numbers a frame at its first attempt on either line; a numbered frame keeps its number (R23). -/
def State.numberFrame (s : State) (k : TxKind) (c : Copy) : State :=
  match c.header with
  | some _ => s
  | none =>
    s.setLiu { s.liu with
      l1 := s.liu.l1.number k c.id (s.header k c.payload)
      l2 := s.liu.l2.number k c.id (s.header k c.payload)
      seq := s.liu.seq + 1 }

/-- The line is busy: the node's own attempt is under way, or the idle time is under two byte times (R19). A start cell
of another station is no command; the body, noise or collision that it begins is told at its end (log 11). -/
def Line.busy (x : Line) (now : Nat) : Bool := x.attempt.isSome || decide (now - x.idleSince < Config.idleGap)

/-- An attempt starts on a line that is not busy when its idle time reaches the candidate's required gap (R24). The idle
time that the line reports cannot be longer than the time since the last stop cell known (log 11). -/
def State.startAttempt (s : State) (l : LineId) (idle : Nat) : State :=
  let x := s.line l
  match x.candidate with
  | some (k, c) =>
    if s.life = .run ∧ x.busy s.now = false ∧ requiredGap s.own k c.attempts ≤ idle ∧ x.idleSince + idle ≤ s.now then
      (s.numberFrame k c).modLine l fun y =>
        { y with attempt := some k, idleSince := s.now - idle, attemptFrom := s.now }
    else s
  | none => s

/-! ## The frame on the line (R23, R174) -/

/-- The frame in the attempt on a line. -/
def Line.inAttempt (x : Line) : Option (TxKind × Copy) :=
  match x.attempt with
  | none => none
  | some k =>
    match (x.slot k).cur with
    | none => none
    | some c => some (k, c)

/-- The bytes a frame of node `own` is on the line: the preamble 55h, 55h, C7h, the header, the payload, the check code
low byte first (R174). -/
def wireBytes (own : Nat) (k : FrameKind) (h : Header) (payload : List Byte) : List Byte :=
  [0x55, 0x55, 0xC7] ++ [byteOf k.code, byteOf own, h.seq, h.flags] ++ payload ++ le16 h.check

/-- What the node sends on a line: the bytes of the numbered frame in the attempt. -/
def State.sends (s : State) (l : LineId) : Option (List Byte) :=
  match (s.line l).inAttempt with
  | some (k, { payload, header := some h, .. }) => some (wireBytes s.own k.frameKind h payload)
  | _ => none

/-! ## Line health (R26 to R28) -/

/-- A line enters DOWN (R28). -/
def Line.enterDown (x : Line) (now : Nat) : Line :=
  { x with
    state := .down, report := .empty, incident := .empty, claim := .empty, attempt := none
    probeOk := false, probeDue := some (now + Config.probePeriod), downs := satInc x.downs }

/-- A line enters UP (R27, R29). -/
def Line.enterUp (x : Line) (now : Nat) : Line :=
  { x with state := .up, drops := 0, probeDue := none, quietFrom := now }

/-- An attempt ends clean (R25): the copy leaves, the next frame takes the slot, the drop count returns to 0; a
clean probe sets the probe outcome (R28). -/
def Line.endClean (x : Line) (k : TxKind) (now : Nat) : Line :=
  { x.setSlot k (x.slot k).advance with
    attempt := none, drops := 0, idleSince := now
    probeOk := if x.state = .down then true else x.probeOk }

/-- The 16th collision drops the copy (R26); a dropped probe clears the probe outcome and counts no drop (R28). -/
def Line.dropCopy (x : Line) (k : TxKind) : Line :=
  { x.setSlot k (x.slot k).advance with
    dropped := satInc x.dropped
    drops := if x.state = .down then x.drops else min 3 (x.drops + 1)
    probeOk := if x.state = .down then false else x.probeOk }

/-- An attempt of copy `c` ends in a collision (R25, R26): counted; the copy is dropped at its 16th, else the next
frame takes its place (R22), else it stays with its attempt count raised. The byte that holds the collision ends now or
later, so no stop cell known is later than now (log 11). -/
def Line.endCollision (x : Line) (k : TxKind) (c : Copy) (now : Nat) : Line :=
  let y := { x with attempt := none, idleSince := now, collisions := satInc x.collisions }
  if Config.attemptLimit ≤ c.attempts + 1 then y.dropCopy k
  else
    match (y.slot k).nxt with
    | some _ => y.setSlot k (y.slot k).advance
    | none => y.setSlot k { cur := some { c with attempts := c.attempts + 1 }, nxt := none }

/-- The third consecutive drop sends an UP or QUIET line DOWN (R26). -/
def Line.judgeDrops (x : Line) (now : Nat) : Line :=
  if 3 ≤ x.drops ∧ x.state ≠ .down then x.enterDown now else x

/-- The end of the last stop cell read on the line of an attempt in progress: the node's bytes follow each other without
a gap from the attempt's start; before the first has ended, the idle time stands as at the start (R19). -/
def Line.lastStop (x : Line) (now : Nat) : Nat :=
  if x.attemptFrom + Config.byteTime ≤ now then now - (now - x.attemptFrom) % Config.byteTime else x.idleSince

/-- An attempt ends with the echo absent (R25): the line enters DOWN; a line already DOWN stays DOWN, the probe
outcome is cleared and a newer probe takes the slot (R28, log 12). The idle time goes on from the last stop cell (R19). -/
def Line.endEchoAbsent (x : Line) (k : TxKind) (now : Nat) : Line :=
  if x.state = .down then
    match (x.slot k).nxt with
    | some _ => { x.setSlot k (x.slot k).advance with attempt := none, probeOk := false, idleSince := x.lastStop now }
    | none => { x with attempt := none, probeOk := false, idleSince := x.lastStop now }
  else { x with idleSince := x.lastStop now }.enterDown now

/-- Activity on a line: its idle time restarted at `t`. -/
def State.touchLine (s : State) (l : LineId) (t : Nat) : State := s.modLine l fun x => { x with idleSince := t }

end Sys2Proof.Machine
end

