-- ==== Sys2Proof/Machine/QueueOps.lean ====
section
/-! DEFINITION. The Start Queue's own claim and list (spec/08): claim frames, opening, starting, closing, appending
and removing entries, and when a grant is due. -/

namespace Sys2Proof.Machine

/-- The START_CLAIM frame of the own claim with a claim state (spec/08 8.1). -/
def State.claimPayload (s : State) (f : FanId) (st : ClaimState) : List Byte :=
  encodeClaim ⟨s.cfg.group, f.val + 1, s.sq.ownNumber, st⟩

def State.sendClaim (s : State) (f : FanId) (st : ClaimState) : State := s.handOver .claim (s.claimPayload f st)

/-- The claim state the own claim's frames carry. -/
def OwnClaim.frameState : OwnClaim → ClaimState
  | .none | .wait => .wait
  | .go => .go

def State.restartResend (s : State) : State :=
  s.setSq { s.sq with resendDue := some (s.now + Config.resendPeriod) }

/-- Hands over a frame of the current claim and restarts the re-send timer (R149). -/
def State.resendClaim (s : State) : State :=
  match s.sq.own, s.sq.ownFan with
  | .none, _ => s
  | _, none => s
  | c, some f => (s.sendClaim f c.frameState).restartResend

/-- Opens the own claim for a fan (R144). -/
def State.openClaim (s : State) (f : FanId) : State :=
  ((s.setSq { s.sq with own := .wait, ownFan := some f, ownNumber := s.sq.ownNumber + 1 }).sendClaim f .wait).restartResend

/-! ## The list (R140 to R143) -/

/-- The own entry is the entry of the own section. -/
def isOwnEntry (own : Nat) (e : QueueEntry) : Bool := e.station == own

/-- Position of the own entry: the entries before it (spec/08 8.3). -/
def State.position (s : State) : Option Nat := s.sq.list.findIdx? (isOwnEntry s.own)

/-- The list with a change that leaves it empty clearing the overflow flag (R141, R143). -/
def Sq.setList (q : Sq) (l : List QueueEntry) : Sq :=
  { q with list := l, overflow := if l.isEmpty then false else q.overflow }

/-- Removes the entries of a section. -/
def Sq.removeSection (q : Sq) (k : Nat) : Sq := q.setList (q.list.filter fun e => e.station != k)

/-- Appends at the newest end, or counts a claim not stored (R140, R143). -/
def Sq.append (q : Sq) (e : QueueEntry) : Sq :=
  if q.list.length < Config.queueLimit then { q with list := q.list ++ [e] }
  else { q with overflow := true, dropped := satInc q.dropped }

/-- The own entry's announced state follows the own claim state (R145). -/
def Sq.markOwnGo (q : Sq) (own : Nat) : Sq :=
  { q with list := q.list.map fun e => if isOwnEntry own e then { e with go := true } else e }

/-- The own claim becomes GO: announced, sent, re-send timer restarted (R146, R147). -/
def State.claimGo (s : State) (f : FanId) : State :=
  ((s.setSq { s.sq.markOwnGo s.own with own := .go }).sendClaim f .go).restartResend

/-- Closes the own claim with DONE or ABANDON (R148). -/
def State.closeClaim (s : State) (f : FanId) (st : ClaimState) : State :=
  (s.setSq { s.sq.removeSection s.own with resendDue := none, own := .none, ownFan := none }).sendClaim f st

/-- A grant is due: WAIT, the own entry present, fewer than L entries before it (R146). -/
def State.grantDue (s : State) : Bool :=
  s.sq.own == .wait &&
  match s.position with
  | some p => p < s.cfg.startsLimit
  | none => false

end Sys2Proof.Machine
end

