-- ==== Sys2Proof/Machine/Fans.lean ====
section
/-! DEFINITION. The fan channels (spec/07): entering and leaving each state, targets, supervision, faults, lockout.
Every change of which fans are counted asks for own availability to be formed (R94, R138). -/

namespace Sys2Proof.Machine

/-- Measured speed in the direction D (spec/07 7.1). -/
def speedIn (d : Direction) (m : Int) : Int :=
  match d with
  | .towardB => m
  | .towardA => -m

/-- The FCH commands a duty: kept as the pending duty, limited to 0..100 (R15). -/
def State.commandDuty (s : State) (f : FanId) (duty : Nat) : State :=
  s.modFanIn f fun x => { x with pendingDuty := some (min 100 duty) }

/-- Hands the claim back, when fan f holds it (R120, R148). -/
def State.handBack (s : State) (f : FanId) (st : ClaimState) : State :=
  if s.fch.claim = some f then (s.closeClaim f st).setFch { (s.closeClaim f st).fch with claim := none } else s

/-- Writes the run minutes to the store when they differ from the value last written (R136). -/
def State.writeMinutes (s : State) (f : FanId) : State :=
  if (s.fan f).minutes = (s.fan f).minutesWritten then s
  else (s.request (.runMinutes f) (s.fan f).minutes.toNat).modFan f fun x => { x with minutesWritten := x.minutes }

/-- Run-time accumulator in µs (R136). -/
def Fan.accumulated (x : Fan) (now : Nat) : Nat :=
  match x.accSince with
  | some t => x.acc + (now - t)
  | none => x.acc

/-- Leaving RUNNING: the accumulator stands, the supervision runs are discarded, the minutes are written. -/
def State.leaveRunning (s : State) (f : FanId) : State :=
  if (s.fan f).state = .running then
    (s.modFan f fun x =>
      { x with acc := x.accumulated s.now, accSince := none, speedLossFrom := none, directionFrom := none }).writeMinutes f
  else s

/-- Every timer and supervision run of the channel stopped (R129, R133). The commanded direction and speed stay as last
driven, in FAULT and LOCKED_OUT too (the model's choice: log 52). -/
def Fan.quieten (x : Fan) : Fan :=
  { x with
    brakeUntil := none, staggerUntil := none, startUntil := none, coastUntil := none, holdUntil := none
    speedLossFrom := none, directionFrom := none }

/-! ## Entering states -/

/-- OFF. The commanded direction and speed stay as last driven (the model's choice: log 52). -/
def Fan.toOff (x : Fan) : Fan := { x.quieten with state := .off }

/-- START_WAIT (R120). -/
def Fan.toStartWait (x : Fan) : Fan := { x with state := .startWait, brakeUntil := none }

/-- BRAKING (R119): the brake limit runs on across a re-decision. -/
def Fan.toBraking (x : Fan) (now : Nat) : Fan :=
  { x with
    state := .braking, staggerUntil := none
    brakeUntil := match x.brakeUntil with
      | some t => some t
      | none => some (now + Config.brakeLimit) }

/-- LOCKED_OUT (R133). -/
def State.enterLockedOut (s : State) (f : FanId) (cause : LockoutCause) : State :=
  ((((s.handBack f .abandon).leaveRunning f).modFan f fun x =>
    { x.quieten with state := .lockedOut, lockout := cause }).commandDuty f 0
    |>.request (.latch f) 1).wantAvail

/-- The fan's store counters are advanced (R135); a full counter is not, and asks for nothing (log 20). -/
def State.countFault (s : State) (f : FanId) : State :=
  if (s.fan f).faults = BitVec.allOnes 24 then s
  else (s.modFan f fun x => { x with faults := x.faults + 1 }).request (.faultCounter f) ((s.fan f).faults + 1).toNat

def State.countStart (s : State) (f : FanId) : State :=
  if (s.fan f).starts = BitVec.allOnes 24 then s
  else (s.modFan f fun x => { x with starts := x.starts + 1 }).request (.startCounter f) ((s.fan f).starts + 1).toNat

/-- FAULT (R129); the third goes on to LOCKED_OUT. -/
def State.enterFault (s : State) (f : FanId) (cause : FaultCause) : State :=
  let s' := ((((s.handBack f .abandon).leaveRunning f).modFan f fun x =>
    { x.quieten with state := .fault, lastFault := cause, faultCount := min 3 (x.faultCount + 1)
                     holdUntil := some (s.now + Config.faultHold) }).commandDuty f 0
    |>.countFault f).wantAvail
  if 3 ≤ (s'.fan f).faultCount then s'.enterLockedOut f .thirdFault else s'

/-- A fan that stands in BRAKING or START_WAIT with its drive-fault contact active goes on to FAULT (R128). -/
def State.faultIfActive (s : State) (f : FanId) : State :=
  if (s.fanIn f).debounced && ((s.fan f).state == .braking || (s.fan f).state == .startWait) then
    s.enterFault f .drive
  else s

/-- The run path (R118): BRAKING when the fan turns against D faster than 10 %, else START_WAIT. -/
def State.runPath (s : State) (f : FanId) (d : Direction) : State :=
  if speedIn d (s.fan f).measured < -10 then
    ((s.handBack f .abandon).modFan f fun x => x.toBraking s.now).faultIfActive f
  else (s.modFan f Fan.toStartWait).faultIfActive f

/-- Commanded speed from a target speed (R123). -/
def commandedSpeed (c : Settings) (v : Nat) : Nat := min 100 (max c.sMin v)

/-- STARTING, in the direction of the target in force (R122). -/
def State.enterStarting (s : State) (f : FanId) : State :=
  match (s.fan f).target with
  | .off => s
  | .run d v =>
    ((s.modFan f fun x =>
      { x with
        state := .starting, cmdDir := d, cmdSpeed := commandedSpeed s.cfg v, staggerUntil := none
        startUntil := some (s.now + sec s.cfg.startLimit), speedLossFrom := none
        directionFrom := none }).commandDuty f (commandedSpeed s.cfg v)).countStart f

/-- RUNNING (R124): the claim is handed back done. -/
def State.enterRunning (s : State) (f : FanId) : State :=
  (s.modFan f fun x => { x with state := .running, startUntil := none, accSince := some s.now }).handBack f .done

/-- STOPPING, from STARTING or RUNNING (R126). The direction stays as last commanded (R115); so does the commanded speed (the
model's choice: log 52). -/
def State.enterStopping (s : State) (f : FanId) : State :=
  (((s.handBack f .abandon).leaveRunning f).modFan f fun x =>
    { x with state := .stopping, startUntil := none, coastUntil := some (s.now + Config.coastLimit)
             coastOverrun := false }).commandDuty f 0

/-! ## Targets (R116 to R120, R126) -/

/-- The vent target of a fan (R117). -/
def State.ventTarget (s : State) (v : Vent) (f : FanId) : Target :=
  if s.isCounted f then .run v.dir (max s.cfg.sMin v.speed) else .off

/-- The target in force: the vent target while a vent run is active, else the plan target (R116). -/
def State.inForce (s : State) (f : FanId) : Target :=
  match s.ord.vent with
  | some v => s.ventTarget v f
  | none => s.fch.planTargets[f]

def Target.dir? : Target → Option Direction
  | .off => none
  | .run d _ => some d

/-- A change of the target in force reaches the channel in its state (R116). Outside RUN it is recorded (R137). -/
def State.changeTarget (s : State) (f : FanId) (t : Target) : State :=
  let x := s.fan f
  if x.target = t then s
  else
    let s' := s.modFan f fun y => { y with target := t }
    if s.life = .run then
      match x.state, t with
      | .braking, .off => s'.modFan f Fan.toOff
      | .startWait, .off => (s'.handBack f .abandon).modFan f Fan.toOff
      | .braking, .run d _ | .startWait, .run d _ =>
        if x.target.dir? = some d then s' else s'.runPath f d
      | .starting, .off | .running, .off => s'.enterStopping f
      | .starting, .run d v | .running, .run d v =>
        if x.cmdDir = d then
          (s'.modFan f fun y => { y with cmdSpeed := commandedSpeed s.cfg v }).commandDuty f (commandedSpeed s.cfg v)
        else s'.enterStopping f
      | .off, _ | .stopping, _ | .fault, _ | .lockedOut, _ => s'
    else s'

/-- A fan in OFF whose target in force is RUN leaves OFF, in RUN only (R118, R137). -/
def State.leaveOff (s : State) (f : FanId) : State :=
  if s.life = .run ∧ (s.fan f).state = .off then
    match (s.fan f).target with
    | .off => s
    | .run d _ => s.runPath f d
  else s

/-- An operation on each installed fan, F1 upward: the rules give the fans of one event no order (the model's choice:
log 53). -/
def State.forFans (s : State) (g : State → FanId → State) : State :=
  allFans.foldl (fun s f => if s.installed f then g s f else s) s

/-- Every channel takes the target in force, and fans in OFF act on theirs. -/
def State.actOnTargets (s : State) : State :=
  (s.forFans fun s f => s.changeTarget f (s.inForce f)).forFans State.leaveOff

/-- The free claim goes to the lowest-numbered fan in START_WAIT (R120), which opens it (R144). -/
def State.settleClaim (s : State) : State :=
  match s.fch.claim with
  | some _ => s
  | none =>
    if s.life = .run then
      match allFans.find? (fun f => s.installed f && (s.fan f).state == .startWait) with
      | some f => (s.setFch { s.fch with claim := some f }).openClaim f
      | none => s
    else s

/-- Stagger length of node s (R121). -/
def staggerTime (own : Nat) : Nat := sec (own % 8 * 3)

/-- The stagger timer of the claim holder runs while no line is UP (R121). -/
def State.updateStagger (s : State) : State :=
  match s.fch.claim with
  | none => s
  | some f =>
    if (s.fan f).state = .startWait then
      if s.anyUp then s.modFan f fun x => { x with staggerUntil := none }
      else
        match (s.fan f).staggerUntil with
        | some _ => s
        | none => s.modFan f fun x => { x with staggerUntil := some (s.now + staggerTime s.own) }
    else s

/-! ## Measured-speed updates (R119, R120, R124, R125, R127) -/

/-- The start of a supervision run after an update that finds its condition `bad` (R125). -/
def runStart (bad : Bool) (start : Option Nat) (now : Nat) : Option Nat :=
  if bad then some (start.getD now) else none

/-- A run in progress is at least `len` old. -/
def runOver (start : Option Nat) (now len : Nat) : Bool :=
  match start with
  | some t => t + len ≤ now
  | none => false

/-- Supervision of a fan in RUNNING (R125). -/
def State.supervise (s : State) (f : FanId) (m : Int) : State :=
  let x := s.fan f
  let mD := speedIn x.cmdDir m
  let loss := runStart (2 * mD < x.cmdSpeed) x.speedLossFrom s.now
  let rev := runStart (mD < 0) x.directionFrom s.now
  if runOver rev s.now Config.directionRun then s.enterFault f .direction
  else if runOver loss s.now Config.speedLossRun then s.enterFault f .speedLoss
  else s.modFan f fun y => { y with speedLossFrom := loss, directionFrom := rev }

/-- A measured speed reaches a channel (R13); in LISTEN it is recorded (R137). -/
def State.speedUpdate (s : State) (f : FanId) (m : Int) : State :=
  let s' := s.modFan f fun x => { x with measured := m }
  if s.life = .run then
    match (s.fan f).state with
    | .braking => if m.natAbs ≤ 10 then (s'.modFan f Fan.toStartWait).faultIfActive f else s'
    | .startWait =>
      match (s.fan f).target with
      | .run d _ => if speedIn d m < -10 then s'.runPath f d else s'
      | .off => s'
    | .starting =>
      if 4 * ((s.fan f).cmdSpeed : Int) ≤ 5 * speedIn (s.fan f).cmdDir m then s'.enterRunning f else s'
    | .running => s'.supervise f m
    | .stopping => if m.natAbs ≤ 10 then s'.modFan f Fan.toOff else s'
    | .off | .fault | .lockedOut => s'
  else s'

/-- The measured speeds of all installed fans reach their channels. -/
def State.speedUpdates (s : State) : State := s.forFans fun s f => s.speedUpdate f (s.fanIn f).measured

/-- A drive-fault change reaches a channel (R128, R130). -/
def State.driveFaultChange (s : State) (f : FanId) (active : Bool) : State :=
  if s.life = .run then
    match (s.fan f).state with
    | .braking | .startWait | .starting | .running => if active then s.enterFault f .drive else s
    | .fault =>
      if !active && (s.fan f).holdUntil.isNone then (s.modFan f Fan.toOff).wantAvail else s
    | .off | .stopping | .lockedOut => s
  else s

end Sys2Proof.Machine
end

