-- ==== Sys2Proof/Machine/Thrust.lean ====
section
/-! DEFINITION. The Thrust Allocator (spec/06): view capacity, initial demand, the lead's demand step, eligibility,
share, the fan plan. -/

namespace Sys2Proof.Machine

/-- A report's availability in a direction (R36). -/
def Report.avail (r : Report) : Direction → Nat
  | .towardB => r.availB
  | .towardA => r.availA

/-- A section's availability in a direction, as its entry says. -/
def State.availOf (s : State) (k : Nat) (d : Direction) : Nat := (s.entry k).report.avail d

/-! ## The demand in use (R95 to R97) -/

/-- View capacity (R95). -/
def State.tcap (s : State) (h : Held) : Nat :=
  ((s.cfg.sections.filter fun k => s.countable k && !h.inSpan s.cfg k).map (s.availOf · h.triple.dir)).sum

/-- Initial demand (R96). -/
def State.initialDemand (s : State) (h : Held) : Nat := s.tcap h * s.cfg.initialDemand / 100

/-- The demand in use (R97). -/
def State.demandInUse (s : State) (h : Held) : Nat :=
  match h.demand with
  | some d => d.t
  | none => s.initialDemand h

/-! ## The demand step (R98, R99) -/

/-- A velocity in the incident direction. -/
def along (d : Direction) (v : Int) : Int :=
  match d with
  | .towardB => v
  | .towardA => -v

/-- The velocities the lead takes: the first four countable sections with velocity, from itself upstream (R98). -/
def State.walk (s : State) (h : Held) : List Int :=
  ((((h.upstream s.cfg).dropWhile (· != s.own)).filter s.countableWithVelocity).take 4).map
    fun k => along h.triple.dir ((s.entry k).report.velocity.getD 0)

/-- Control velocity, none when unavailable (R98). -/
def State.controlVelocity (s : State) (h : Held) : Option Int := median (s.walk h)

/-- The error e (R99). -/
def demandError (vt : Nat) (vc : Int) : Int := clampInt (vt - vc) (-1000) 1000

/-- The change Δ (R99). -/
def demandDelta (kp ki : Nat) (e ePrev : Int) : Int := roundHalfAway (kp * (e - ePrev) + ki * e) 16

/-- The new T and e of a demand step (R99). -/
def demandStep (c : Settings) (cap t : Nat) (ePrev : Option Int) (vc : Int) : Nat × Int :=
  let e := demandError c.vt vc
  ((clampInt (t + demandDelta c.kp c.ki e (ePrev.getD e)) 0 cap).toNat, e)

/-! ## Eligibility and share (R101 to R103) -/

def State.eligible (s : State) (h : Held) (k : Nat) : Bool :=
  s.countable k && !h.inSpan s.cfg k && 0 < s.availOf k h.triple.dir

/-- A_before; 0 at a node that has no place in the rank order (log 24). -/
def State.aBefore (s : State) (h : Held) : Nat :=
  let r := h.rank s.cfg
  if r.contains s.own then
    (((r.takeWhile (· != s.own)).filter (s.eligible h)).map (s.availOf · h.triple.dir)).sum
  else 0

/-- The own share S of a demand. -/
def State.share (s : State) (h : Held) (t : Nat) : Nat :=
  if s.eligible h s.own then min (s.availOf s.own h.triple.dir) (t - s.aBefore h) else 0

/-! ## The fan plan (R104 to R107) -/

/-- A fan's group in the preference order (R104); 4 for a fan that is not counted by its state. -/
def Fan.group (x : Fan) (d : Direction) : Nat :=
  match x.state with
  | .running | .starting => if x.cmdDir = d then 1 else 4
  | .startWait => if x.target.dir? = some d then 2 else 4
  | .off => 3
  | .braking | .stopping | .fault | .lockedOut => 4

/-- Preference order of the counted fans (R104). -/
def State.preference (s : State) (d : Direction) : List FanId :=
  let c := allFans.filter s.isCounted
  [1, 2, 3, 4].flatMap fun g => c.filter fun f => (s.fan f).group d == g

/-- f_j, the smallest derated thrust among the first j (R105). -/
def smallest (fs : List Nat) (j : Nat) : Nat := ((fs.take j).min?).getD 0

/-- The minimum-speed thrust f_min and the start threshold (R105). -/
def minThrust (f1 sMin : Nat) : Nat := f1 * sMin ^ 2 / 10000
def startThreshold (f1 sMin : Nat) : Nat := ceilDiv (minThrust f1 sMin) 2

/-- 1..n. -/
def oneTo (n : Nat) : List Nat := (List.range n).map (· + 1)

/-- The smallest j with j · f_j ≥ S, else h (R105). -/
def enoughFans (fs : List Nat) (share : Nat) : Nat :=
  ((oneTo fs.length).find? fun j => share ≤ j * smallest fs j).getD fs.length

/-- The fan count k from the derated thrusts in preference order (R105). -/
def fanCount (fs : List Nat) (sMin share : Nat) : Nat :=
  match fs with
  | [] => 0
  | f1 :: _ => if share = 0 ∨ share < startThreshold f1 sMin then 0 else enoughFans fs share

/-- The plan speed for k fans of per-fan thrust f (R106). -/
def planSpeed (k f sMin share : Nat) : Nat :=
  max sMin (((oneTo 100).find? fun v => share * 10000 ≤ k * f * v ^ 2).getD 100)

/-- The plan record for a held record (R107). At S = 0 it shows f_1, f_min and the threshold as absent (the model's choice:
log 24). -/
def State.planOf (s : State) (h : Held) : Plan :=
  let d := h.triple.dir
  let t := s.demandInUse h
  let share := s.share h t
  let fs := (s.preference d).map (s.derated · d)
  let k := fanCount fs s.cfg.sMin share
  let formed : Option Nat := if share = 0 then none else fs.head?
  { dir := d, demand := t, basisHeld := h.demand.isSome, tcap := s.tcap h
    eligible := (s.cfg.sections.filter (s.eligible h)).length
    before := s.aBefore h, share, h := fs.length
    f1 := formed, fMin := formed.map (minThrust · s.cfg.sMin), threshold := formed.map (startThreshold · s.cfg.sMin)
    f := if k = 0 then none else some (smallest fs k)
    k, speed := if k = 0 then none else some (planSpeed k (smallest fs k) s.cfg.sMin share)
    derating := s.tal.derating }

/-- A fan's target under a plan (R107): the first k of the preference order run. -/
def State.planTarget (s : State) (p : Plan) (f : FanId) : Target :=
  match p.speed with
  | some v => if ((s.preference p.dir).take p.k).contains f then .run p.dir v else .off
  | none => .off

/-- The plan computation: the plan record, and the complete set of targets to the FCH (R107). -/
def State.computePlan (s : State) (h : Held) : State :=
  let p := s.planOf h
  (s.setTal { s.tal with plan := some p }).setFch
    { s.fch with planTargets := #v[s.planTarget p 0, s.planTarget p 1, s.planTarget p 2, s.planTarget p 3] }

/-- No incident is held: the plan is removed and every target is OFF (R109). -/
def State.removePlan (s : State) : State :=
  (s.setTal { s.tal with plan := none }).setFch { s.fch with planTargets := Vector.replicate 4 .off }

end Sys2Proof.Machine
end

