-- ==== Sys2Proof/Machine/Settle.lean ====
section
/-! DEFINITION. How one event ends (log 5): own availability, the plan and the fans' answer to their targets until
nothing more changes; then the claim, the stagger, the own entry; then the frames the event asks for; then the
programming engine. -/

namespace Sys2Proof.Machine

/-- Forms own availability (R94); a change is written and asks for a plan (R108). -/
def State.formAvail (s : State) : State :=
  let a := (s.availability .towardB, s.availability .towardA)
  let s' := s.setSignals { s.signals with avail := false }
  if s.tal.avail = some a then s' else (s'.setTal { s.tal with avail := some a }).wantPlan

/-- Computes the plan that was asked for, while an incident is held (R108). -/
def State.formPlan (s : State) : State :=
  let s' := s.setSignals { s.signals with plan := false }
  match s.inc.held with
  | some h => if s.signals.plan then s'.computePlan h else s'
  | none => s'

/-- One pass: availability, own entry, plan, targets. -/
def State.pass (s : State) : State :=
  ((if s.signals.avail then s.formAvail else s).refreshOwn.formPlan).actOnTargets

/-- Passes until no fan has entered or left the count in a pass. -/
def State.settle : Nat → State → State
  | 0, s => s
  | n + 1, s => if s.pass.signals.avail then s.pass.settle n else s.pass

/-- Passes that suffice: each but the last takes a fan to FAULT or LOCKED_OUT. -/
def settleBound : Nat := 6

/-- Period of the report timer (R33). -/
def reportPeriod : IncState → Nat
  | .quiet => ms 1000
  | .alert => ms 250
  | .declared | .controlled | .holding => ms 500

/-- Hands over an INCIDENT frame of the held record; for the own identity it restarts the declarer timer (R68). A lead's frame
between two expiries of its control interval repeats the Vc of the last one (the model's choice: log 51). -/
def State.sendIncident (s : State) : State :=
  match s.inc.held with
  | none => s
  | some h =>
    let own := h.id.station == s.own
    let s' := s.handOver .incident (encodeIncident h own s.inc.lead s.inc.leadVc s.inc.state)
    if own then s'.setInc { s.inc with declarerDue := some (s.now + Config.declarerPeriod) } else s'

/-- Hands over a SECTION_REPORT of the own entry as it stands, and restarts the report timer (R33). -/
def State.sendReport (s : State) : State :=
  let s' := s.handOver .report (encodeReport (s.entry s.own).report)
  s'.setLiu { s'.liu with reportDue := some (s.now + reportPeriod s.inc.state) }

/-- Hands over the frames asked for, in RUN only; nothing stays asked for. -/
def State.flush (s : State) : State :=
  let s1 := if s.signals.incident && s.life == .run then s.sendIncident else s
  let s2 := if s.signals.report && s.life == .run then s1.sendReport else s1
  s2.setSignals .clear

/-- The end of an event. -/
def State.finish (s : State) : State :=
  if s.active then
    (((s.settle settleBound).settleClaim.updateStagger.refreshOwn).flush).kickEngine
  else s.kickEngine

end Sys2Proof.Machine
end

