-- ==== Sys2Proof/Machine/Incident.lean ====
section
/-! DEFINITION. The held incident (spec/05) and declarations (spec/04 4.3): lead, forming a record, ranking, merging,
direction changes, stand-down, demand acceptance; the timers of the Incident Controller. -/

namespace Sys2Proof.Machine

def State.modInc (s : State) (g : Inc → Inc) : State := s.setInc (g s.inc)

/-- A change of the node incident state asks for a plan (R108). -/
def State.setIncState (s : State) (st : IncState) : State :=
  if s.inc.state = st then s else (s.modInc fun x => { x with state := st }).wantPlan

/-- The declarer hands over a frame (R68). -/
def State.declarerFrame (s : State) : State :=
  match s.inc.held with
  | some h => if h.id.station = s.own then s.wantIncident else s
  | none => s

/-- When a source accepted at `t` is more than 6000 ms old. -/
def sourceEnd (t : Nat) : Nat := t + ms (Config.sourceMs + 1)

/-- A source is timed out: accepted more than 6000 ms ago (R89). -/
def sourceOld (now : Nat) (x : DemandSource) : Bool := Config.sourceMs < elapsedMs now x.time

/-! ## The lead (R85 to R87) -/

/-- The demand part holds a source nearer the span than s, accepted within the last 6000 ms. -/
def State.preempted (s : State) (h : Held) : Bool :=
  match h.demand with
  | some { source := some x, .. } => h.nearer x.station s.own && !sourceOld s.now x
  | _ => false

/-- The condition of R85. -/
def State.leadHolds (s : State) : Bool :=
  match s.inc.held with
  | none => false
  | some h => s.life == .run && s.viewLead == some s.own && !s.preempted h

/-- Hands over an INCIDENT frame of the record as it stands now; a frame asked for before is this one. -/
def State.sendIncidentNow (s : State) : State :=
  s.sendIncident.setSignals { s.sendIncident.signals with incident := false }

/-- Becoming lead (R86): its frame shows the record at that moment, whatever the same event does next. It carries no control
velocity: none has been used at a step yet (the model's choice: log 51). -/
def State.becomeLead (s : State) : State :=
  match s.inc.held with
  | none => s
  | some h =>
    ((s.modInc fun x =>
      { x with
        held := some { h with demand := some ⟨s.demandInUse h, some ⟨s.own, s.now, 0⟩, none⟩ }
        lead := true, leadVc := none
        controlDue := some (s.now + Config.controlInterval)
        sourceUntil := some (sourceEnd s.now) }).setIncState .controlled).wantPlan.sendIncidentNow

def Demand.dropError (d : Demand) : Demand := { d with ePrev := none }

def Held.dropError (h : Held) : Held := { h with demand := h.demand.map Demand.dropError }

/-- Ceasing to be lead (R87); e_prev goes (R100). -/
def State.ceaseLead (s : State) : State :=
  s.modInc fun x => { x with lead := false, controlDue := none, held := x.held.map Held.dropError }

/-- The re-evaluation of the lead, on the own entry as it stands (R85). -/
def State.reevalLead (s : State) : State :=
  let s := s.refreshOwn
  if s.leadHolds then (if s.inc.lead then s else s.becomeLead)
  else (if s.inc.lead then s.ceaseLead else s)

/-- A view change: the lead is re-evaluated, then the TAL plans (R48, R108). -/
def State.viewChange (s : State) : State := s.reevalLead.wantPlan

/-! ## Forming a record (R63, R66, R74) -/

/-- The vent run ends (R160). -/
def State.endVent (s : State) : State := s.setOrd { s.ord with vent := none }

/-- An incident is held: a vent run ends. Whether its end reaches the fans before the plan is free (R117, log 4). -/
def State.endVentForIncident (s : State) : State :=
  match s.ord.vent with
  | none => s
  | some _ => if s.drawBool then s.endVent.counted.actOnTargets else s.endVent.counted

/-- The held record is formed: by declaration, operator declaration, adoption or replacement. -/
def State.formRecord (s : State) (id : Identity) (severity : Nat) (triple : Triple) (locus : Nat) : State :=
  ((s.modInc fun x =>
    { x with
      state := .declared
      held := some { id, severity, triple, locus, demand := none, pending := none }
      alertClear := none, guardUntil := none, declarerDue := none, lead := false, controlDue := none
      sourceUntil := none, leadVc := none }).endVentForIncident).wantPlan.reevalLead

/-- X outranks Y, of different identities (R72). -/
def outranks (sevX : Nat) (x : Identity) (sevY : Nat) (y : Identity) : Bool :=
  sevY < sevX
  || (sevX == sevY && x.station < y.station)
  || (sevX == sevY && x.station == y.station && newer x.number y.number)

/-! ## Declaration (R61 to R67) -/

/-- One advance of the declaration counter, or of the last number drawn when the counter is full (R62). -/
def State.advanceCounter (s : State) : State :=
  if s.inc.declCounter = BitVec.allOnes 24 then s.modInc fun x => { x with lastDrawn := x.lastDrawn + 1 }
  else
    (s.modInc fun x =>
      { x with declCounter := x.declCounter + 1, lastDrawn := (x.declCounter + 1).setWidth 8 }).request
        .declCounter (s.inc.declCounter + 1).toNat

/-- Draws a declaration number that is not retired; at most nine advances (R62). -/
def State.drawNumber : Nat → State → State
  | 0, s => s
  | n + 1, s =>
    if s.advanceCounter.inc.retired.contains ⟨s.own, s.advanceCounter.inc.lastDrawn⟩ then
      s.advanceCounter.drawNumber n
    else s.advanceCounter

def drawBound : Nat := 9

/-- Velocities of the tag-fresh sections (R67). -/
def State.draughts (s : State) : List Int :=
  (s.cfg.sections.filter fun k => (s.entry k).tagFresh).filterMap fun k => (s.entry k).report.velocity

/-- The direction of a new record by the running rule (R67). -/
def State.ruleDirection (s : State) (locus : Nat) : Direction :=
  match s.cfg.rule with
  | .fixedA => .towardA
  | .fixedB => .towardB
  | .nearPortal => if locus ≤ s.cfg.n / 2 then .towardA else .towardB
  | .followDraught =>
    match median s.draughts with
    | some m => if 50 ≤ m then .towardB else if m ≤ -50 then .towardA else s.cfg.dflt
    | none => s.cfg.dflt

/-- A declaration of a new identity at severity v (R63): its frame is asked for first, so that a declarer that becomes
lead at once sends it as lead (R86). -/
def State.declareNew (s : State) (v : Nat) : State :=
  let s := s.drawNumber drawBound
  s.wantIncident.formRecord ⟨s.own, s.inc.lastDrawn⟩ v ⟨s.ruleDirection s.own, 0, s.own⟩ s.own

/-- A raise in place (R64). -/
def State.raise (s : State) (v : Nat) : State :=
  (s.modInc fun x => { x with held := x.held.map fun h => { h with severity := v } }).wantPlan.wantIncident

/-- The declaration rule for a local latch of severity v (R61). -/
def State.declarationRule (s : State) (v : Nat) : State :=
  match s.inc.held with
  | none => s.declareNew v
  | some h => if h.severity < v then (if h.id.station = s.own then s.raise v else s.declareNew v) else s

/-- The operator detector returns to NORMAL. -/
def State.releaseOperator (s : State) : State := s.modInc fun x => { x with operator := .normal }

/-- An operator record of gateway g, order m (R66, R73), after the latch of the operator detector (R59). -/
def State.operatorRecord (s : State) (g : Nat) (m : BitVec 8) (locus : Nat) (dir : Option Direction) : State :=
  let s := s.modInc fun x => { x with operator := ⟨.alarm, true, false, none⟩ }
  let triple : Triple := match dir with
    | some d => ⟨d, 0, g⟩
    | none => ⟨s.ruleDirection locus, 0, s.own⟩
  if s.inc.retired.contains ⟨g, m⟩ then (if s.inc.held.isNone then s.releaseOperator else s)
  else
    match s.inc.held with
    | none => s.formRecord ⟨g, m⟩ 4 triple locus
    | some h =>
      if h.id ≠ ⟨g, m⟩ ∧ outranks 4 ⟨g, m⟩ h.severity h.id then s.formRecord ⟨g, m⟩ 4 triple locus else s

/-! ## Direction (R76 to R80) -/

/-- The newest known triple (R76). -/
def Held.newest (h : Held) : Triple :=
  match h.pending with
  | some p => p.triple
  | none => h.triple

/-- The arriving triple a wins against the newest known n (R76). -/
def wins (a n : Triple) : Bool :=
  newer a.version n.version
  || (a.version == n.version && a != n && a.source < n.source)
  || (a.version == n.version && a.source == n.source && a.dir != n.dir && a.dir == .towardB)

/-- The direction guard timer, started; with a setting of 0 it never runs (R77). -/
def State.guardEnd (s : State) : Option Nat := if s.cfg.guard = 0 then none else some (s.now + sec s.cfg.guard)

/-- T kept, the rest of the demand part removed (R79). -/
def Demand.keepT (d : Demand) : Demand := { t := d.t, source := none, ePrev := none }

/-- A triple of a different direction is applied (R79). -/
def State.directionChange (s : State) (t : Triple) : State :=
  (((s.modInc fun x =>
    { x with
      held := x.held.map fun h => { h with triple := t, pending := none, demand := h.demand.map Demand.keepT }
      state := if x.state = .controlled then .holding else x.state
      guardUntil := s.guardEnd, lead := false, controlDue := none, sourceUntil := none
      leadVc := none }).declarerFrame).wantPlan).reevalLead

/-- A triple of the applied direction is applied (R77, R79). -/
def State.sameDirection (s : State) (t : Triple) : State :=
  (((s.modInc fun x =>
    { x with held := x.held.map fun h => { h with triple := t, pending := none } }).declarerFrame).wantPlan).reevalLead

/-- A winning triple is applied or held pending (R77). -/
def State.takeTriple (s : State) (h : Held) (t : Triple) : State :=
  if t.dir = h.triple.dir then s.sameDirection t
  else
    match s.inc.guardUntil with
    | none => s.directionChange t
    | some _ => s.modInc fun x => { x with held := x.held.map fun h => { h with pending := some ⟨t, s.now⟩ } }

/-- The arriving triple competes (R76). -/
def State.competeTriple (s : State) (t : Triple) : State :=
  match s.inc.held with
  | none => s
  | some h => if wins t h.newest then s.takeTriple h t else s

/-- A FORCE_DIRECTION request (R80); none when it is refused. -/
def State.forceDirection (s : State) (id : Identity) (d : Direction) (g : Nat) : Option State :=
  match s.inc.held with
  | none => none
  | some h =>
    if h.id = id then
      some (if d = h.newest.dir then s else s.competeTriple ⟨d, h.newest.version + 1, g⟩)
    else none

/-! ## Demand acceptance (R89) -/

/-- The source allows a demand from origin o. -/
def Held.sourceAllows (h : Held) (now o : Nat) : Bool :=
  match h.demand with
  | some { source := some x, .. } => sourceOld now x || o == x.station || h.nearer o x.station
  | _ => true

/-- The conditions of R89 for a lead's frame of the held identity. -/
def State.demandOk (s : State) (h : Held) (o : Nat) (m : IncidentMsg) : Bool :=
  m.triple.dir == h.triple.dir && m.triple.version == h.triple.version && (h.upstream s.cfg).contains o
  && h.sourceAllows s.now o

/-- The demand is accepted. -/
def State.acceptDemand (s : State) (h : Held) (o t : Nat) (seq : BitVec 8) : State :=
  (((s.modInc fun x =>
    { x with
      held := some { h with demand := some ⟨t, some ⟨o, s.now, seq⟩, none⟩ }
      sourceUntil := some (sourceEnd s.now) }).setIncState .controlled).wantPlan).reevalLead

/-- A frame's demand part, when present, is judged against the record as it stands. -/
def State.judgeDemand (s : State) (o : Nat) (m : IncidentMsg) : State :=
  match s.inc.held, m.demand with
  | some h, some (t, seq) =>
    if s.demandOk h o m then s.acceptDemand h o t seq
    else s.modInc fun x => { x with refused := satInc x.refused }
  | _, _ => s

/-! ## An INCIDENT frame (R71, R73 to R75) -/

/-- A frame of the held identity is merged (R75); a merge that changes the held record asks for a plan (R108). -/
def State.merge (s : State) (h : Held) (m : IncidentMsg) : State :=
  let s' := (if h.severity < m.severity then
      s.modInc fun x => { x with held := some { h with severity := m.severity } }
    else s).competeTriple m.triple
  if s'.inc.held = some h then s' else s'.wantPlan

/-- The frame's record is adopted or replaces the held one (R74), or is merged, or is ignored (R73). -/
def State.handleIncident (s : State) (o : Nat) (m : IncidentMsg) : State :=
  if s.inc.retired.contains m.id then s
  else
    match s.inc.held with
    | none => (s.formRecord m.id m.severity m.triple m.locus).judgeDemand o m
    | some h =>
      if h.id = m.id then (s.merge h m).judgeDemand o m
      else if outranks m.severity m.id h.severity h.id then
        (s.formRecord m.id m.severity m.triple m.locus).judgeDemand o m
      else s

/-- A delivered INCIDENT frame of origin o (R71). -/
def State.deliverIncident (s : State) (o : Nat) (p : List Byte) : State :=
  match parseIncident s.cfg.n o p with
  | none => s.modInc fun x => { x with rejected := satInc x.rejected }
  | some m => s.handleIncident o m

/-! ## Stand-down (R60, R81, R82) -/

/-- Appending to the retired list (R82). -/
def retire (l : List Identity) (id : Identity) : List Identity :=
  if l.contains id then l
  else if l.length < Config.retiredLimit then l ++ [id]
  else l.drop (l.length + 1 - Config.retiredLimit) ++ [id]

/-- Release of a smoke or heat detector (R60). -/
def Detector.release (d : Detector) : Detector :=
  if d.state = .alarm then { state := .alarm, latched := false, rearm := true, since := none } else d

/-- A detector is active (R53). -/
def DetState.active : DetState → Bool
  | .preAlarm | .confirming | .alarm => true
  | .normal | .outOfService => false

def Inc.anyActive (x : Inc) : Bool :=
  x.smoke.state.active || x.call.state.active || x.heat.state.active || x.operator.state.active

/-- The detectors of a node whose incident was stood down. -/
def Inc.releaseAll (x : Inc) : Inc :=
  { x with smoke := x.smoke.release, heat := x.heat.release, call := .normal, operator := .normal }

/-- The INC's state without an incident: record and timers cleared, ALERT or QUIET by the detectors (R53, R81). -/
def Inc.clearHeld (x : Inc) : Inc :=
  { x with
    held := none, guardUntil := none, controlDue := none, declarerDue := none, sourceUntil := none, leadVc := none
    lead := false, alertClear := none, state := if x.anyActive then .alert else .quiet }

/-- A STAND_DOWN of an identity at the INC (R81); of the held one, the fault counts return to 0 (R131). -/
def State.standDown (s : State) (id : Identity) : State :=
  let s := s.modInc fun x => { x with retired := retire x.retired id }
  if s.inc.held.map Held.id = some id then
    ((s.modInc fun x => x.releaseAll.clearHeld).removePlan).forFans fun s f =>
      s.modFan f fun x => { x with faultCount := 0 }
  else s

/-! ## QUIET and ALERT (R53) -/

/-- QUIET and ALERT derived from the detectors after an evaluation or a CALL event, while no incident is held. -/
def State.judgeAlert (s : State) : State :=
  match s.inc.held with
  | some _ => s
  | none =>
    match s.inc.state, s.inc.anyActive with
    | .quiet, true => s.setIncState .alert
    | .alert, true => s.modInc fun x => { x with alertClear := none }
    | .alert, false =>
      match s.inc.alertClear with
      | some _ => s
      | none => s.modInc fun x => { x with alertClear := some (s.now + Config.alertClear) }
    | _, _ => s

/-! ## The lead's step (R88, R99, R100) -/

/-- A control interval expiry of the lead: a demand step when Vc is available, and the frame. The demand sequence goes on
from 255 with 0 (the model's choice: log 50). The frames handed over until the next expiry repeat this Vc (log 51). -/
def State.controlStep (s : State) (h : Held) (d : Demand) : State :=
  let vc := s.controlVelocity h
  let seq := match d.source with
    | some x => x.seq
    | none => 0
  let d' : Demand := match vc with
    | some v =>
      let r := demandStep s.cfg (s.tcap h) d.t d.ePrev v
      ⟨r.1, some ⟨s.own, s.now, seq + 1⟩, some r.2⟩
    | none => { d with source := some ⟨s.own, s.now, seq⟩ }
  (s.modInc fun x =>
    { x with
      held := some { h with demand := some d' }
      leadVc := vc
      controlDue := some (s.now + Config.controlInterval)
      sourceUntil := some (sourceEnd s.now) }).wantPlan.wantIncident

end Sys2Proof.Machine
end

