-- ==== Sys2Proof/Machine/Due.lean ====
section
/-! DEFINITION. When a timer-driven command falls due: the one test that both the idle step (which puts due commands
into the queue, log 1) and the command's own meaning use. A command that is not due has no effect: its timer is
stopped or set anew ("the expiry no longer falls due"; log 9). -/

namespace Sys2Proof.Machine

/-- The end of a spell that began at `t`. -/
def spellOver (now t len : Nat) : Bool := t + len ≤ now

/-- A spell that may not be running. -/
def spellOver? (now : Nat) (t : Option Nat) (len : Nat) : Bool :=
  match t with
  | some t => spellOver now t len
  | none => false

def Fiu.period (x : Fiu) : PeriodChannel → PeriodCh
  | .smoke => x.smoke
  | .temperature => x.temp

/-- The age at which a peer entry turns STALE or LOST has been reached (R37). -/
def Entry.ageOver (e : Entry) (now : Nat) : Bool :=
  match e.state with
  | .fresh => spellOver now e.writtenAt (ms (Config.freshMs + 1))
  | .stale => spellOver now e.writtenAt (ms (Config.staleMs + 1))
  | .empty | .lost => false

/-- A fan's accumulator has reached a minute (R136), be it at the instant the fan leaves RUNNING. -/
def Fan.minuteOver (x : Fan) (now : Nat) : Bool := Config.runMinute ≤ x.accumulated now

/-- A peer's entry of the start queue not heard for 12,000 ms (R142). -/
def State.claimOver (s : State) (k : Nat) : Bool :=
  k != s.own && s.sq.list.any fun e => e.station == k && spellOver s.now e.heardAt Config.claimExpiry

/-- A fan channel of the node that acts: installed, in LISTEN or RUN. -/
def State.channel (s : State) (f : FanId) : Bool := s.active && s.installed f

/-- The command falls due now. -/
def State.falls (s : State) : Instr → Bool
  | .load => s.life == .load && !s.resetHeld && s.cst.engine.isNone
  | .entryToRun => s.life == .listen && isDue s.now s.listenUntil
  | .sampleTimerExpiry => s.active && isDue s.now s.fiu.sampleDue
  | .anemometerWatchExpiry => !s.resetHeld && spellOver s.now s.fiu.anemo.watchFrom Config.anemometerWatch
  | .periodChannelWatchExpiry c => !s.resetHeld && spellOver s.now (s.fiu.period c).watchFrom Config.periodWatch
  | .tachWindowTimerExpiry => s.life == .configInvalid && isDue s.now s.fiu.windowDue
  | .driveFaultDebounceExpiry f =>
    !s.resetHeld && s.installed f && spellOver? s.now (s.fanIn f).differsFrom Config.debounce
  | .pwmPeriodBoundary f => !s.resetHeld && spellOver s.now (s.fanIn f).periodFrom Config.pwmPeriod
  | .quietWatchExpiry l => s.active && (s.line l).state == .up && spellOver s.now (s.line l).quietFrom Config.quietWatch
  | .probeTimerExpiry l => s.active && (s.line l).state == .down && isDue s.now (s.line l).probeDue
  | .reportTimerExpiry => s.life == .run && isDue s.now s.liu.reportDue
  | .entryAgeExpiry k => s.active && isSection s.cfg.n k && k != s.own && (s.entry k).ageOver s.now
  | .ventRunExpiry => s.active && (match s.ord.vent with
    | some v => v.ends ≤ s.now
    | none => false)
  | .alertClearExpiry => s.active && isDue s.now s.inc.alertClear
  | .declarerTimerExpiry => s.life == .run && isDue s.now s.inc.declarerDue
  | .guardTimerExpiry => s.active && isDue s.now s.inc.guardUntil
  | .controlIntervalExpiry => s.life == .run && s.inc.lead && isDue s.now s.inc.controlDue
  | .sourceTimerExpiry => s.active && isDue s.now s.inc.sourceUntil
  | .brakeLimitExpiry f => s.channel f && (s.fan f).state == .braking && isDue s.now (s.fan f).brakeUntil
  | .staggerExpiry f =>
    s.channel f && (s.fan f).state == .startWait && s.fch.claim == some f && !s.anyUp && s.sq.own == .wait
      && isDue s.now (s.fan f).staggerUntil
  | .startLimitExpiry f => s.channel f && (s.fan f).state == .starting && isDue s.now (s.fan f).startUntil
  | .coastLimitExpiry f => s.channel f && (s.fan f).state == .stopping && isDue s.now (s.fan f).coastUntil
  | .faultHoldExpiry f => s.channel f && (s.fan f).state == .fault && isDue s.now (s.fan f).holdUntil
  | .queueEntryExpiry k => s.active && s.claimOver k
  | .resendTimerExpiry => s.life == .run && s.sq.own != .none && isDue s.now s.sq.resendDue
  | .runMinuteElapsed f => s.channel f && (s.fan f).minuteOver s.now
  | .queueEntryProgrammed => match s.cst.engine with
    | some ⟨.portEntry, t⟩ => t ≤ s.now
    | _ => false
  | .updateItemProgrammed => match s.cst.engine with
    | some ⟨.item _ _, t⟩ => t ≤ s.now
    | _ => false
  | .powerOnReset _ | .resetN _ | .anemometerEdge _ | .periodChannelEdge _ | .callPointEdge _
  | .tachometerEdge _ _ _ | .driveFaultInputChange _ _ | .lineNoise _ | .attemptStart _ _ | .attemptClean _
  | .attemptCollision _ | .attemptEchoAbsent _ | .sectionReport _ _ | .incident _ _ | .startClaim _ _
  | .declare _ _ | .forceDirection _ _ | .standDown _ _ | .inhibit _ _ | .release _ _ | .ventRun _ _
  | .ventStop _ _ | .portCycleBegin _ _ _ | .modeWrite _ | .modeRead _ | .pointerWrite _ | .pointerRead
  | .dataWriteAutoincrement _ _ | .dataWriteNoIncrement _ _ | .dataReadAutoincrement | .dataReadNoIncrement
  | .discardedBody _ _ _ | .undefinedOrderKind _ _ _ => false

/-- The commands that the part's own timers bring about, but for the entries of the start queue. -/
def timed : List Instr :=
  [.queueEntryProgrammed, .updateItemProgrammed, .load, .entryToRun, .sampleTimerExpiry, .anemometerWatchExpiry,
    .periodChannelWatchExpiry .smoke, .periodChannelWatchExpiry .temperature, .tachWindowTimerExpiry,
    .quietWatchExpiry .l1, .quietWatchExpiry .l2, .probeTimerExpiry .l1, .probeTimerExpiry .l2, .reportTimerExpiry]
  ++ [.ventRunExpiry, .alertClearExpiry, .declarerTimerExpiry, .guardTimerExpiry, .controlIntervalExpiry,
    .sourceTimerExpiry, .resendTimerExpiry]
  ++ allFans.flatMap (fun f =>
    [.driveFaultDebounceExpiry f, .pwmPeriodBoundary f, .brakeLimitExpiry f, .staggerExpiry f, .startLimitExpiry f,
      .coastLimitExpiry f, .faultHoldExpiry f, .runMinuteElapsed f])

/-- All commands that fall due now. -/
def State.due (s : State) : List Instr :=
  (timed ++ s.cfg.sections.map Instr.entryAgeExpiry
    ++ (s.sq.list.map fun e => Instr.queueEntryExpiry e.station)).filter s.falls

end Sys2Proof.Machine
end

