-- ==== Sys2Proof/Machine/QueueEvents.lean ====
section
/-! DEFINITION. The Start Queue's events (spec/08): grants, a delivered START_CLAIM, the own echo, and the meanings of
its timers. -/

namespace Sys2Proof.Machine

/-- The three outcomes of a command. -/
abbrev Out := Host.Outcome State Fault Refusal

/-- A grant, given to the fan that holds the claim (R146, R120). -/
def State.grant (s : State) : State :=
  match s.fch.claim with
  | some f => if (s.fan f).state = .startWait then (s.claimGo f).enterStarting f else s
  | none => s

/-- The grant is judged (R146). -/
def State.judgeGrant (s : State) : State := if s.grantDue then s.grant else s

/-- The entry is known to a frame (R140). -/
def QueueEntry.known (e : QueueEntry) (k fan : Nat) (number : BitVec 8) : Bool :=
  e.station == k && e.fan == fan && e.number == number

/-- A WAIT or GO frame of section k in the list (R140). -/
def Sq.hear (q : Sq) (k : Nat) (m : ClaimMsg) (now : Nat) : Sq :=
  let go := m.state == .go
  let e : QueueEntry := ⟨k, m.fan, m.number, go, now⟩
  if q.list.any (·.known k m.fan m.number) then
    { q with list := q.list.map fun x => if x.known k m.fan m.number then { x with go, heardAt := now } else x }
  else if q.list.any (·.station == k) then { q with list := (q.list.filter (·.station != k)) ++ [e] }
  else q.append e

/-- A DONE or ABANDON frame: the known entry leaves (R141). -/
def Sq.forget (q : Sq) (k : Nat) (m : ClaimMsg) : Sq :=
  if q.list.any (·.known k m.fan m.number) then q.setList (q.list.filter fun e => !e.known k m.fan m.number) else q

/-- A delivered START_CLAIM frame of section k (R139 to R141). -/
def State.deliverClaim (s : State) (k : Nat) (p : List Byte) : State :=
  match parseClaim p with
  | none => s.setSq { s.sq with rejected := satInc s.sq.rejected }
  | some m =>
    if m.group = s.cfg.group then
      match m.state with
      | .wait | .go => (s.setSq (s.sq.hear k m s.now)).judgeGrant
      | .done | .abandon => (s.setSq (s.sq.forget k m)).judgeGrant
    else s

/-- The frame is of the current claim (R145). -/
def State.ofCurrentClaim (s : State) (p : List Byte) : Bool :=
  s.sq.own != .none && (s.sq.ownFan.map fun f => f.val + 1) == some (byteAt p 1) && s.sq.ownNumber == p.getD 2 0

/-- A clean echo of an own START_CLAIM frame (R145). -/
def State.ownEcho (s : State) (p : List Byte) : State :=
  if s.ofCurrentClaim p then
    if s.sq.list.any (isOwnEntry s.own) then
      s.setSq { s.sq with list := s.sq.list.map fun e => if isOwnEntry s.own e then { e with heardAt := s.now } else e }
    else
      (s.setSq (s.sq.append ⟨s.own, byteAt p 1, s.sq.ownNumber, s.sq.own == .go, s.now⟩)).judgeGrant
  else s

/-- QUEUE_ENTRY_EXPIRY (R142). -/
def execQueueEntryExpiry (k : Nat) (s : State) : Out :=
  .next (if s.falls (.queueEntryExpiry k) then
    ((s.setSq { s.sq.removeSection k with expired := satInc s.sq.expired }).judgeGrant).finish
  else s)

/-- RESEND_TIMER_EXPIRY (R149). -/
def execResendTimerExpiry (s : State) : Out :=
  .next (if s.falls .resendTimerExpiry then s.resendClaim.finish else s)

/-- STAGGER_EXPIRY: the claim has started (R121, R147), the fan enters STARTING (R122). -/
def execStaggerExpiry (f : FanId) (s : State) : Out :=
  .next (if s.falls (.staggerExpiry f) then ((s.claimGo f).enterStarting f).finish else s)

end Sys2Proof.Machine
end

