-- ==== Sys2Proof/Machine/Orders.lean ====
section
/-! DEFINITION. The Order Decoder (spec/09): the judgement of an order and the rule of each kind. -/

namespace Sys2Proof.Machine

def State.modOrd (s : State) (g : Ord → Ord) : State := s.setOrd (g s.ord)

/-- The order is refused: counted, nothing recorded (R152, R153). -/
def State.refuseOrder (s : State) : State := s.modOrd fun x => { x with refused := satInc x.refused }

/-- Own inhibit is set or cleared; a change is told to the TAL and to the store (R157). -/
def State.setInhibit (s : State) (v : Bool) : State :=
  if s.ord.inhibit = v then s
  else (((s.modOrd fun x => { x with inhibit := v }).request .ownInhibit (bitNat v 0)).wantAvail).wantPlan

/-- Section s is in range of an order. -/
def State.rangeHas (s : State) (first last : Nat) : Bool := first ≤ s.own && s.own ≤ last

/-- The rule of the order's kind (R154 to R160); none is a refusal. -/
def State.ruleOfKind (s : State) (g : Nat) (m : BitVec 8) : Order → Option State
  | .declare locus dir => some (s.operatorRecord g m locus dir)
  | .forceDirection id dir => s.forceDirection id dir g
  | .standDown id => some (s.standDown id)
  | .inhibit first last => some (if s.rangeHas first last then s.setInhibit true else s)
  | .release first last => some (if s.rangeHas first last then s.setInhibit false else s)
  | .ventRun first last dir speed duration =>
    if s.rangeHas first last then
      if s.inc.held.isSome then none
      else some (s.modOrd fun x => { x with vent := some ⟨g, m, first, last, dir, speed, s.now + sec duration⟩ })
    else some s
  | .ventStop first last => some (if s.rangeHas first last then s.endVent else s)

/-- Execution is recorded in the gateway table and in the own entry's last executed order (R153). -/
def State.recordOrder (s : State) (g : Nat) (m : BitVec 8) : State :=
  (s.modGateway g fun x => { x with executed := some m }).modOrd fun x => { x with lastOrder := some (g, m) }

/-- An order that passed R152: repeated, executed, or refused by the rule of its kind (R153). -/
def State.judgeOrder (s : State) (g : Nat) (m : BitVec 8) (o : Order) : State :=
  if (s.gateway g).executed = some m then s.modOrd fun x => { x with repeated := satInc x.repeated }
  else
    match s.ruleOfKind g m o with
    | some s' => s'.recordOrder g m
    | none => s.refuseOrder

/-- A delivered ORDER frame of gateway g (R152): payload byte 0 is the kind, byte 1 the number. -/
def State.deliverOrder (s : State) (g : Nat) (p : List Byte) : State :=
  match orderKindOf (byteAt p 0) with
  | none => s.refuseOrder
  | some k =>
    match parseOrder s.cfg.n (p.drop 2) k with
    | none => s.refuseOrder
    | some o => s.judgeOrder g (p.getD 1 0) o

end Sys2Proof.Machine
end

