-- ==== Sys2Proof/Machine/Reception.lean ====
section
/-! DEFINITION. Reception (spec/02 2.5, spec/03 3.3): the checks of an ended body, duplicate suppression, delivery by
kind; the meanings of the commands that are received bodies. -/

namespace Sys2Proof.Machine

/-! ## Counts and line health (R27, R29, R30) -/

/-- The first failing check of a body (R30). -/
inductive BodyCheck where
  | length | crc | origin
  deriving DecidableEq, Repr

def Line.countBad (x : Line) : BodyCheck → Line
  | .length => { x with length := satInc x.length }
  | .crc => { x with crc := satInc x.crc }
  | .origin => { x with origin := satInc x.origin }

/-- A line newly UP: a frame of the open claim is handed over at once (R149). -/
def State.lineUp (s : State) (l : LineId) : State := (s.modLine l fun x => x.enterUp s.now).resendClaim

/-- A valid peer frame on a line (R27, R29). -/
def State.validPeer (s : State) (l : LineId) : State :=
  match (s.line l).state with
  | .up => s.modLine l fun x => { x with quietFrom := s.now }
  | .quiet => s.lineUp l
  | .down => if (s.line l).probeOk then s.lineUp l else s.modLine l fun x => { x with quietFrom := s.now }

/-! ## Duplicate suppression (R31) -/

inductive Judgement where
  | accepted | duplicate | stale
  deriving DecidableEq, Repr

def judge (now : Nat) (r : Option OriginRec) (seq : BitVec 8) : Judgement :=
  match r with
  | none => .accepted
  | some r =>
    if Config.duplicateMs < elapsedMs now r.time then .accepted
    else if newer seq r.seq then .accepted
    else if seq = r.seq then .duplicate
    else .stale

/-- The record of an origin: a section's in its entry, a gateway's in the gateway table. -/
def State.originRec (s : State) (o : Nat) : Option OriginRec :=
  if isGateway o then (s.gateway o).origin else (s.entry o).origin

def State.setOrigin (s : State) (o : Nat) (r : OriginRec) : State :=
  if isGateway o then s.modGateway o fun x => { x with origin := some r }
  else s.modEntry o fun x => { x with origin := some r }

/-- The heard-on time of a section origin (R42). -/
def State.heardOn (s : State) (l : LineId) (o : Nat) : State :=
  if isGateway o then s
  else
    match l with
    | .l1 => s.modEntry o fun x => { x with heard1 := some s.now }
    | .l2 => s.modEntry o fun x => { x with heard2 := some s.now }

/-! ## SECTION_REPORT (R39, R40, R43) -/

/-- The written entry. -/
def Entry.write (e : Entry) (now : Nat) (p : List Byte) (r : Report) (ownTag : Option Nat) : Entry :=
  { e with
    state := .fresh, writtenAt := now, payload := p.take 28, report := r, tagMatch := ownTag == some r.tag }

/-- A delivered SECTION_REPORT of section k; a change of either condition of R48 is signalled (of tag-fresh alone: log 54). -/
def State.deliverReport (s : State) (k : Nat) (p : List Byte) : State :=
  match parseReport p with
  | none => s.setSvt { s.svt with rejected := satInc s.svt.rejected }
  | some r =>
    let s' := s.modEntry k fun e => e.write s.now p r (s.running.map Running.tag)
    if s'.viewConditions k = s.viewConditions k then s' else s'.viewChange

/-! ## Delivery (R32) -/

def State.deliver (s : State) (k : FrameKind) (o : Nat) (p : List Byte) : State :=
  match k with
  | .sectionReport => s.deliverReport o p
  | .incident => s.deliverIncident o p
  | .startClaim => s.deliverClaim o p
  | .order => s.deliverOrder o p

/-- A body's header after the kind byte. -/
structure RxHeader where
  origin : Nat
  seq    : BitVec 8
  flags  : Byte
  check  : Nat
  deriving DecidableEq, Repr

/-- The first check of R30 that a body of a known kind fails. -/
def bodyCheck (own n : Nat) (k : FrameKind) (h : RxHeader) (p : List Byte) : Option BodyCheck :=
  if p.length ≠ k.payloadBytes then some .length
  else if frameCheck k (byteOf h.origin) h.seq h.flags p ≠ h.check then some .crc
  else if h.origin = own ∨ k.originOk n h.origin = false then some .origin
  else none

/-- A valid peer frame is judged against its origin's record, and delivered when accepted (R31, R32). -/
def State.judgeFrame (s : State) (l : LineId) (k : FrameKind) (h : RxHeader) (p : List Byte) : State :=
  match judge s.now (s.originRec h.origin) h.seq with
  | .accepted =>
    (((s.setOrigin h.origin ⟨h.seq, s.now⟩).heardOn l h.origin).modLine l fun x =>
      { x with accepted := satInc x.accepted }).deliver k h.origin p
  | .duplicate => s.heardOn l h.origin
  | .stale => s

/-- An ended body of a known kind at a node that receives (R30, R35): its line became idle just now (log 11). -/
def State.receive (s : State) (l : LineId) (k : FrameKind) (h : RxHeader) (p : List Byte) : State :=
  if s.active then
    let s := s.touchLine l (s.now - Config.idleGap)
    match bodyCheck s.own s.cfg.n k h p with
    | some c => s.modLine l (·.countBad c)
    | none => ((s.validPeer l).judgeFrame l k h p).finish
  else s

def frameHeader (b : Frame) : RxHeader := ⟨b.origin.toNat, b.seq, b.flags, b.check.toNat⟩
def orderHeader (b : OrderFrame) : RxHeader := ⟨b.origin.toNat, b.seq, b.flags, b.check.toNat⟩

/-- The payload of an ORDER body of a kind byte. -/
def orderPayload (b : OrderFrame) (kind : Byte) : List Byte := kind :: b.number :: b.params

/-- An ORDER body with its kind byte. -/
def State.receiveOrder (s : State) (l : LineId) (kind : Byte) (b : OrderFrame) : State :=
  s.receive l .order (orderHeader b) (orderPayload b kind)

/-! ## The received frames -/

/-- SECTION_REPORT (R40). -/
def execSectionReport (l : LineId) (b : Frame) (s : State) : Out :=
  .next (s.receive l .sectionReport (frameHeader b) b.payload)

/-- INCIDENT (R73). -/
def execIncident (l : LineId) (b : Frame) (s : State) : Out := .next (s.receive l .incident (frameHeader b) b.payload)

/-- START_CLAIM (R139). -/
def execStartClaim (l : LineId) (b : Frame) (s : State) : Out := .next (s.receive l .startClaim (frameHeader b) b.payload)

/-- DECLARE (R154). -/
def execDeclare (l : LineId) (b : OrderFrame) (s : State) : Out :=
  .next (s.receiveOrder l (byteOf OrderKind.declare.code) b)

/-- FORCE_DIRECTION (R155). -/
def execForceDirection (l : LineId) (b : OrderFrame) (s : State) : Out :=
  .next (s.receiveOrder l (byteOf OrderKind.forceDirection.code) b)

/-- STAND_DOWN (R156). -/
def execStandDown (l : LineId) (b : OrderFrame) (s : State) : Out :=
  .next (s.receiveOrder l (byteOf OrderKind.standDown.code) b)

/-- INHIBIT (R157). -/
def execInhibit (l : LineId) (b : OrderFrame) (s : State) : Out :=
  .next (s.receiveOrder l (byteOf OrderKind.inhibit.code) b)

/-- RELEASE (R157). -/
def execRelease (l : LineId) (b : OrderFrame) (s : State) : Out :=
  .next (s.receiveOrder l (byteOf OrderKind.release.code) b)

/-- VENT_RUN (R159). -/
def execVentRun (l : LineId) (b : OrderFrame) (s : State) : Out :=
  .next (s.receiveOrder l (byteOf OrderKind.ventRun.code) b)

/-- VENT_STOP (R160). -/
def execVentStop (l : LineId) (b : OrderFrame) (s : State) : Out :=
  .next (s.receiveOrder l (byteOf OrderKind.ventStop.code) b)

/-- An order of none of the seven kinds (R152). A kind byte that is one of the seven is that order (log 28). -/
def execUndefinedOrderKind (l : LineId) (kind : Byte) (b : OrderFrame) (s : State) : Out :=
  .next (s.receiveOrder l kind b)

/-! ## DISCARDED_BODY (R20, R30) -/

/-- The kept bytes of a whole body as header and payload, with the kind. -/
def splitBody (body : List Byte) : Option (FrameKind × RxHeader × List Byte) :=
  match frameKindOf (byteAt body 0) with
  | none => none
  | some k =>
    if body.length = k.payloadBytes + 6 then
      some (k, ⟨byteAt body 1, body.getD 2 0, body.getD 3 0, u16At body (body.length - 2)⟩,
        (body.drop 4).take k.payloadBytes)
    else none

/-- The start of the line's idle time at the end of a discarded body: 80 µs ago when the line became idle, now when a
byte's stop cell read 0, of which fewer than 36 bytes were kept (log 11). -/
def discardEnd (now : Nat) (body : List Byte) (cut : Bool) : Nat :=
  if cut ∧ body.length < 36 then now else now - Config.idleGap

/-- An ended body as the receiver kept it. One that ended at a stop cell read 0 or ran past 36 bytes fails the length
check; one that passes every check is delivered like any other (log 28). -/
def execDiscardedBody (l : LineId) (body : List Byte) (cut : Bool) (s : State) : Out :=
  .next (
    match cut, splitBody body with
    | false, some (k, h, p) => s.receive l k h p
    | _, _ => if s.active then (s.touchLine l (discardEnd s.now body cut)).modLine l (·.countBad .length) else s)

end Sys2Proof.Machine
end

