-- ==== Sys2Proof/Machine/LineEvents.lean ====
section
/-! DEFINITION. The meanings of the lines' own events (spec/02): noise, the start and the three ends of an attempt, the
quiet watch, the probe timer, the report timer, and the age expiry of a section's entry (spec/03). -/

namespace Sys2Proof.Machine

/-- The last stop cell's end at noise told with an idle time: 120 µs ago at the earliest, where the first byte ended (R19,
R20). -/
def noiseStop (now idle : Nat) : Nat := now - min idle (Config.noiseWindow - Config.byteTime)

/-- LINE_NOISE: activity without a start delimiter is counted (R20). The idle time at the noise is the command's operand
(log 11). -/
def execLineNoise (l : Noise) (s : State) : Out :=
  .next (if s.active then
    s.modLine l.line fun x => { x with noise := satInc x.noise, idleSince := noiseStop s.now l.idle }
  else s)

/-- ATTEMPT_START (R23, R24). -/
def execAttemptStart (l : LineId) (idle : Nat) (s : State) : Out := .next (s.startAttempt l idle)

/-- The echo of a clean START_CLAIM goes to the Start Queue (R25). -/
def State.useEcho (s : State) (k : TxKind) (p : List Byte) : State :=
  match k with
  | .claim => s.ownEcho p
  | .report | .incident => s

/-- ATTEMPT_CLEAN (R25). -/
def execAttemptClean (l : LineId) (s : State) : Out :=
  .next (
    match (s.line l).inAttempt with
    | none => s
    | some (k, c) => ((s.modLine l fun x => x.endClean k s.now).useEcho k c.payload).finish)

/-- ATTEMPT_COLLISION (R25, R26). -/
def execAttemptCollision (l : LineId) (s : State) : Out :=
  .next (
    match (s.line l).inAttempt with
    | none => s
    | some (k, c) => (s.modLine l fun x => (x.endCollision k c s.now).judgeDrops s.now).finish)

/-- ATTEMPT_ECHO_ABSENT (R25, R28). -/
def execAttemptEchoAbsent (l : LineId) (s : State) : Out :=
  .next (
    match (s.line l).inAttempt with
    | none => s
    | some (k, _) => (s.modLine l fun x => x.endEchoAbsent k s.now).finish)

/-- QUIET_WATCH_EXPIRY (R27). -/
def execQuietWatchExpiry (l : LineId) (s : State) : Out :=
  .next (if s.falls (.quietWatchExpiry l) then (s.modLine l fun x => { x with state := .quiet }).finish else s)

/-- A probe is placed in a DOWN line's SECTION_REPORT slot, and the probe timer runs again (R28). -/
def State.placeProbe (s : State) (l : LineId) : State :=
  let c : Copy := ⟨s.liu.frames, encodeReport (s.entry s.own).report, 0, none⟩
  let s' := s.modLine l fun x =>
    { x with report := x.report.place (x.attempt == some .report) c, probeDue := some (s.now + Config.probePeriod) }
  s'.setLiu { s'.liu with frames := s.liu.frames + 1 }

/-- PROBE_TIMER_EXPIRY (R28). -/
def execProbeTimerExpiry (l : LineId) (s : State) : Out :=
  .next (if s.falls (.probeTimerExpiry l) then s.placeProbe l else s)

/-- REPORT_TIMER_EXPIRY (R33). -/
def execReportTimerExpiry (s : State) : Out :=
  .next (if s.falls .reportTimerExpiry then s.wantReport.finish else s)

/-- The state an entry's age brings it to (R37). -/
def EntryState.older : EntryState → EntryState
  | .fresh => .stale
  | .stale => .lost
  | .empty => .empty
  | .lost => .lost

/-- ENTRY_AGE_EXPIRY (R37); a change of either condition of R48 is signalled (of tag-fresh alone: log 54). -/
def execEntryAgeExpiry (k : Nat) (s : State) : Out :=
  .next (if s.falls (.entryAgeExpiry k) then
    let s' := s.modEntry k fun e => { e with state := e.state.older }
    (if s'.viewConditions k = s.viewConditions k then s' else s'.viewChange).finish
  else s)

end Sys2Proof.Machine
end

