-- ==== Sys2Proof/Machine/IncidentEvents.lean ====
section
/-! DEFINITION. The meanings of the Incident Controller's timers (spec/04, spec/05) and of the end of a vent run's time
(spec/09). -/

namespace Sys2Proof.Machine

/-- ALERT_CLEAR_EXPIRY (R53). -/
def execAlertClearExpiry (s : State) : Out :=
  .next (if s.falls .alertClearExpiry then
    let s' := s.modInc fun x => { x with alertClear := none }
    (if s.inc.state = .alert then s'.setIncState .quiet else s').finish
  else s)

/-- DECLARER_TIMER_EXPIRY (R68). -/
def execDeclarerTimerExpiry (s : State) : Out :=
  .next (if s.falls .declarerTimerExpiry then
    ((s.modInc fun x => { x with declarerDue := none }).declarerFrame).finish
  else s)

/-- GUARD_TIMER_EXPIRY: a pending update is applied (R78). -/
def execGuardTimerExpiry (s : State) : Out :=
  .next (if s.falls .guardTimerExpiry then
    let s' := s.modInc fun x => { x with guardUntil := none }
    (match s.inc.held with
      | some { pending := some p, .. } => s'.directionChange p.triple
      | _ => s').finish
  else s)

/-- CONTROL_INTERVAL_EXPIRY (R88, R100). -/
def execControlIntervalExpiry (s : State) : Out :=
  .next (if s.falls .controlIntervalExpiry then
    let s' := (s.modInc fun x => { x with controlDue := none }).refreshOwn
    (match s'.inc.held with
      | some h =>
        match h.demand with
        | some d => s'.controlStep h d
        | none => s'
      | none => s').finish
  else s)

/-- SOURCE_TIMER_EXPIRY: the lead is re-evaluated first (R90). -/
def execSourceTimerExpiry (s : State) : Out :=
  .next (if s.falls .sourceTimerExpiry then
    let s' := (s.modInc fun x => { x with sourceUntil := none }).reevalLead
    (if s'.inc.lead then s'
      else if s'.inc.state = .controlled then s'.setIncState .holding
      else s').finish
  else s)

/-- VENT_RUN_EXPIRY (R160). -/
def execVentRunExpiry (s : State) : Out :=
  .next (if s.falls .ventRunExpiry then s.endVent.finish else s)

end Sys2Proof.Machine
end

