-- ==== Sys2Proof/Machine/FanEvents.lean ====
section
/-! DEFINITION. The meanings of the fan channels' timers (spec/07). -/

namespace Sys2Proof.Machine

/-- BRAKE_LIMIT_EXPIRY (R119). -/
def execBrakeLimitExpiry (f : FanId) (s : State) : Out :=
  .next (if s.falls (.brakeLimitExpiry f) then (s.enterFault f .windmill).finish else s)

/-- START_LIMIT_EXPIRY (R124). -/
def execStartLimitExpiry (f : FanId) (s : State) : Out :=
  .next (if s.falls (.startLimitExpiry f) then (s.enterFault f .start).finish else s)

/-- COAST_LIMIT_EXPIRY: OFF with the coast overrun flag set, and the target acted on at once (R127). -/
def execCoastLimitExpiry (f : FanId) (s : State) : Out :=
  .next (if s.falls (.coastLimitExpiry f) then
    (s.modFan f fun x => { x.toOff with coastOverrun := true }).finish
  else s)

/-- FAULT_HOLD_EXPIRY: OFF when the contact is clear, else FAULT with the hold over (R130). -/
def execFaultHoldExpiry (f : FanId) (s : State) : Out :=
  .next (if s.falls (.faultHoldExpiry f) then
    (if (s.fanIn f).debounced then s.modFan f fun x => { x with holdUntil := none }
      else (s.modFan f Fan.toOff).wantAvail).finish
  else s)

/-- A whole minute of RUNNING (R136): the count stops when it is full; the accumulator starts again. -/
def Fan.minute (x : Fan) (now : Nat) : Fan :=
  { x with acc := x.accumulated now - Config.runMinute
           accSince := x.accSince.map fun _ => now
           minutes := satInc x.minutes }

/-- RUN_MINUTE_ELAPSED: every 15 minutes the count is written (R136). -/
def execRunMinuteElapsed (f : FanId) (s : State) : Out :=
  .next (if s.falls (.runMinuteElapsed f) then
    let s' := s.modFan f fun x => x.minute s.now
    let x := s'.fan f
    (if Config.minutesPerWrite ≤ x.minutes.toNat - x.minutesWritten.toNat then s'.writeMinutes f else s').finish
  else s)

end Sys2Proof.Machine
end

