-- ==== Sys2Proof/Machine/Observe.lean ====
section
/-! DEFINITION. The Field Input Unit (spec/01): calibration, windows and histories, the Local Observation and its
consumers, the detectors' evaluation (spec/04 4.2), the meanings of the field-input commands. -/

namespace Sys2Proof.Machine

/-! ## Channels (R2 to R10) -/

/-- The calibrated value of a raw value, limited to lo..hi (R8). -/
def calibrate (c : Calibration) (raw : Nat) (lo hi : Int) : Int :=
  clampInt (roundHalfAway (c.slope * raw + c.offset) 65536) lo hi

/-- The anemometer's raw value (R4). -/
def Anemometer.raw (a : Anemometer) : Nat := 65535 * a.high / (a.high + a.low)

/-- A period channel's raw value (R6); 0 before the first period (log 16). -/
def PeriodCh.raw (p : PeriodCh) : Nat := 1000000 / p.period

/-- The anemometer sample of an expiry (R4). -/
def State.anemoSampleNow (s : State) : Option Int :=
  if s.fiu.anemo.state = .ok then some (calibrate s.cfg.calAnemo s.fiu.anemo.raw (-2000) 2000) else none

/-- The smoke and temperature samples of an expiry (R9). -/
def State.smokeNow (s : State) : Option Int :=
  if s.fiu.smoke.dead then none else some (calibrate s.cfg.calSmoke s.fiu.smoke.raw 0 20000)

def State.tempNow (s : State) : Option Int :=
  if s.fiu.temp.dead then none else some (calibrate s.cfg.calTemp s.fiu.temp.raw (-40) 1200)

/-- Appends to a list that holds the last `n` (R5, R10). -/
def pushLast {α : Type} (n : Nat) (l : List α) (x : α) : List α := (l ++ [x]).drop (l.length + 1 - n)

/-- The reported velocity of a window (R5). -/
def windowVelocity (w : List (Option Int)) : Option Int :=
  let valid := w.filterMap id
  if 4 ≤ valid.length then some (valid.sum.tdiv valid.length) else none

/-- The rise of a history (R10). -/
def historyRise (h : List (Option Int)) : Option Int :=
  let valid := h.filterMap id
  if valid.length = 16 then some (valid.getLastD 0 - valid.headD 0) else none

/-! ## Tachometers (R12, R13) -/

/-- Closes a tachometer window. -/
def FanInput.closeWindow (x : FanInput) (pulses speed : Nat) : FanInput :=
  let rpm := (x.count * 30).tdiv pulses
  { x with rpm, measured := clampInt ((rpm * 100).tdiv speed) (-200) 200, count := 0 }

/-- Closes the windows of the installed fans. A fan that store byte 5Ch takes out in CONFIG_INVALID keeps its count, rpm
and measured speed until it is back (the model's choice: log 38). -/
def State.closeWindows (s : State) (pulses speed : FanId → Nat) : State :=
  s.forFans fun s f => s.modFanIn f fun x => x.closeWindow (pulses f) (speed f)

/-! ## The observation (R1, R16) -/

/-- One count within ±32767 (R12). -/
def countBy (c d : Int) : Int := if -32767 ≤ c + d ∧ c + d ≤ 32767 then c + d else c

/-- The call count of an observation (R11). -/
def Fiu.callCount (x : Fiu) : Nat := min 255 (x.call1.count.toNat + x.call2.count.toNat)

/-- The FIU's own work at a sample-timer expiry: windows closed, samples taken, histories pushed, observation formed. -/
def State.sample (s : State) : State :=
  let s := s.closeWindows (fun f => s.cfg.fans[f].pulses) (fun f => s.cfg.fans[f].speed)
  let n := s.fiu.expiries + 1
  let window := pushLast 8 s.fiu.window s.anemoSampleNow
  let history := if n % 8 = 0 then pushLast 16 s.fiu.history s.tempNow else s.fiu.history
  let rise := if n % 8 = 0 then historyRise history else s.fiu.rise
  s.setFiu { s.fiu with
    sampleDue := some (s.now + Config.samplePeriod)
    expiries := n
    anemoSample := s.anemoSampleNow
    window, velocity := windowVelocity window
    history, rise
    obs := some
      { velocity := windowVelocity window, smoke := s.smokeNow, temperature := s.tempNow, rise
        anemo := s.fiu.anemo.state, smokeDead := s.fiu.smoke.dead, tempDead := s.fiu.temp.dead
        callCount := s.fiu.callCount
        speeds := (allFans.filter s.installed).map fun f => (s.fanIn f).measured } }

/-! ## Detector evaluation (R55 to R57, R60) -/

/-- Out of service: a confirm or a heat run is aborted (R55). -/
def Detector.outOfService (d : Detector) : Detector := { d with state := .outOfService, since := none }

/-- A detector held for re-arm, its sensor OK (R60). -/
def Detector.rearmEval (d : Detector) (below : Bool) : Detector :=
  if below then .normal else { d with state := .alarm }

/-- A latched detector. R56 and R57 discard the smoke confirm start and the heat run where x or y falls or the sensor is
DEAD, and say nothing of them at the latch: here the latch ends them (the model's choice: log 44). -/
def Detector.latch : Detector := ⟨.alarm, true, false, none⟩

/-- PRE_ALARM or NORMAL by the pre-alarm threshold in force, no run in progress. -/
def Detector.quiet (below : Bool) : Detector := if below then .normal else ⟨.preAlarm, false, false, none⟩

/-- The smoke detector at an observation; x is absent when the sensor is DEAD (R55, R56). -/
def evalSmoke (c : Settings) (now : Nat) (x : Option Int) (d : Detector) : Detector :=
  let pre := min c.smokePre c.smokeAlarm
  if d.latched then d
  else
    match x with
    | none => d.outOfService
    | some x =>
      if d.rearm then d.rearmEval (x < pre)
      else if x < c.smokeAlarm then .quiet (x < pre)
      else
        match d.state, d.since with
        | .confirming, some t =>
          if sec c.smokeConfirm ≤ now - t then .latch else d
        | _, _ => ⟨.confirming, false, false, some now⟩

/-- The rise is present and at or above the rate-of-rise alarm (R57). -/
def risen (c : Settings) : Option Int → Bool
  | some r => (c.riseAlarm : Int) ≤ r
  | none => false

/-- The heat detector at an observation; y is absent when the sensor is DEAD (R55, R57). -/
def evalHeat (c : Settings) (now : Nat) (y r : Option Int) (d : Detector) : Detector :=
  let pre := min c.heatPre c.heatAlarm
  if d.latched then d
  else
    match y with
    | none => d.outOfService
    | some y =>
      if d.rearm then d.rearmEval (y < pre)
      else if risen c r then .latch
      else if y < c.heatAlarm then .quiet (y < pre)
      else
        let start := d.since.getD now
        if Config.heatRun ≤ now - start then .latch else ⟨.preAlarm, false, false, some start⟩

/-! ## The consumers (R17) -/

/-- What takes an observation: the measured speeds of the channels (R13), the own entry, the detectors, the derating, the
exposure run. -/
inductive Consumer where
  | speeds | svt | inc | tal | exposure
  deriving DecidableEq, Repr

def consumers : List Consumer := [.speeds, .svt, .inc, .tal, .exposure]

/-- The observation's fields of a report. -/
def Report.observe (r : Report) (o : Observation) : Report :=
  { r with
    velocity := o.velocity, smoke := o.smoke, temperature := o.temperature, anemo := o.anemo
    smokeDead := o.smokeDead, tempDead := o.tempDead, callCount := o.callCount }

/-- The own entry is written and FRESH (R44, R45, R48). Its tag match reads true from here on, and false while it is EMPTY
(the model's choice: log 40). -/
def State.observeView (s : State) (o : Observation) : State :=
  let s := s.refreshOwn
  let s' := s.modEntry s.own fun e =>
    { e with state := .fresh, writtenAt := s.now, tagMatch := true, report := e.report.observe o }
  if s'.viewConditions s.own = s.viewConditions s.own then s' else s'.viewChange

/-- The highest severity among smoke (1) and heat (3) that latched at an evaluation. -/
def newLatch (smoke smoke' heat heat' : Detector) : Option Nat :=
  if heat'.latched && !heat.latched then some 3
  else if smoke'.latched && !smoke.latched then some 1
  else none

/-- A local latch in RUN is taken by the declaration rule (R61); in LISTEN it is deferred (R65). -/
def State.considerLatch (s : State) (v : Option Nat) : State :=
  match v with
  | some v => if s.life = .run then s.declarationRule v else s
  | none => s

/-- The detectors are evaluated, as one event (R55). -/
def State.observeDetectors (s : State) (o : Observation) : State :=
  let smoke := evalSmoke s.cfg s.now o.smoke s.inc.smoke
  let heat := evalHeat s.cfg s.now o.temperature o.rise s.inc.heat
  ((s.modInc fun x => { x with smoke, heat }).considerLatch
    (newLatch s.inc.smoke smoke s.inc.heat heat)).judgeAlert

/-- The derating temperature of an observation (R92). -/
def deratingOf (t : Option Int) : Nat :=
  match t with
  | some t => (clampInt t 0 400).toNat
  | none => 20

/-- The TAL takes the temperature; availability and the plan are formed (R92, R94, R108). -/
def State.observeThrust (s : State) (o : Observation) : State :=
  (s.setTal { s.tal with derating := deratingOf o.temperature }).wantAvail.wantPlan

/-- An exposure: every installed fan not already locked out goes to LOCKED_OUT (R132), F1 first: so stand their latches and
run minutes in the update list (the model's choice: log 53). -/
def State.expose (s : State) : State :=
  (s.setFch { s.fch with exposureFrom := none, lastExposure := some s.now }).forFans fun s f =>
    if (s.fan f).state = .lockedOut then s else s.enterLockedOut f .exposure

/-- The exposure run (R132). -/
def State.observeExposure (s : State) (o : Observation) : State :=
  match o.temperature with
  | none => s.setFch { s.fch with exposureFrom := none }
  | some t =>
    if t < s.cfg.exposure then s.setFch { s.fch with exposureFrom := none }
    else if spellOver? s.now s.fch.exposureFrom Config.exposureRun then s.expose
    else s.setFch { s.fch with exposureFrom := some (s.fch.exposureFrom.getD s.now) }

/-- One consumer takes the observation as its own event (R17), with all that an event ends with. -/
def State.consume (o : Observation) (s : State) (c : Consumer) : State :=
  (match c with
    | .speeds => s.speedUpdates
    | .svt => s.observeView o
    | .inc => s.observeDetectors o
    | .tal => s.observeThrust o
    | .exposure => s.observeExposure o).finish

/-- The consumers take the observation in the order given. -/
def State.consumeIn (s : State) (order : List Consumer) : State :=
  match s.fiu.obs with
  | none => s
  | some o => order.foldl (State.consume o) s

/-- SAMPLE_TIMER_EXPIRY (R1, R17): "no order among them is defined", so the consumers' order is free (log 3). -/
def execSampleTimerExpiry (s : State) : Out :=
  .next (if s.falls .sampleTimerExpiry then
    (s.sample.counted.consumeIn (shuffle (Config.freePlace s.draws) consumers)).finish
  else s)

/-! ## Anemometer (R2, R3) -/

/-- A phase's count, 1..65535. -/
def phaseCount (t u : Nat) : Nat := clampNat (u - t) 1 65535

/-- An edge of the anemometer line to a new level: a rising edge may end a complete period. -/
def Anemometer.edge (a : Anemometer) (level : Bool) (now : Nat) : Anemometer :=
  if a.level = level then a
  else
    match level, a.riseAt, a.fallAt with
    | false, some _, none => { a with level, watchFrom := now, fallAt := some now }
    | false, _, _ => { a with level, watchFrom := now }
    | true, some r, some f =>
      { a with level, watchFrom := now, state := .ok, high := phaseCount r f, low := phaseCount f now
               riseAt := some now, fallAt := none }
    | true, _, _ => { a with level, watchFrom := now, riseAt := some now, fallAt := none }

/-- The channel becomes stuck by the line level (R3). -/
def Anemometer.stuck (a : Anemometer) (now : Nat) : Anemometer :=
  if a.level then
    { a with state := .stuckHigh, high := 65535, low := 0, riseAt := none, fallAt := none, watchFrom := now }
  else { a with state := .stuckLow, high := 0, low := 65535, riseAt := none, fallAt := none, watchFrom := now }

/-- ANEMOMETER_EDGE (R2, R3). -/
def execAnemometerEdge (level : Bool) (s : State) : Out :=
  .next (if s.resetHeld then s else s.setFiu { s.fiu with anemo := s.fiu.anemo.edge level s.now })

/-- ANEMOMETER_WATCH_EXPIRY (R3). -/
def execAnemometerWatchExpiry (s : State) : Out :=
  .next (if s.falls .anemometerWatchExpiry then s.setFiu { s.fiu with anemo := s.fiu.anemo.stuck s.now } else s)

/-! ## Period channels (R6, R7) -/

/-- A rising edge: the second of a pair stores the period and makes the channel OK. -/
def PeriodCh.edge (p : PeriodCh) (now : Nat) : PeriodCh :=
  match p.riseAt with
  | some t => { dead := false, period := max 1 (now - t), riseAt := some now, watchFrom := now }
  | none => { p with riseAt := some now, watchFrom := now }

/-- DEAD: the latest period stays (R7). -/
def PeriodCh.die (p : PeriodCh) (now : Nat) : PeriodCh := { p with dead := true, riseAt := none, watchFrom := now }

def State.modPeriod (s : State) (c : PeriodChannel) (g : PeriodCh → PeriodCh) : State :=
  match c with
  | .smoke => s.setFiu { s.fiu with smoke := g s.fiu.smoke }
  | .temperature => s.setFiu { s.fiu with temp := g s.fiu.temp }

/-- PERIOD_CHANNEL_EDGE (R6, R7). -/
def execPeriodChannelEdge (c : PeriodChannel) (s : State) : Out :=
  .next (if s.resetHeld then s else s.modPeriod c (·.edge s.now))

/-- PERIOD_CHANNEL_WATCH_EXPIRY (R7). -/
def execPeriodChannelWatchExpiry (c : PeriodChannel) (s : State) : Out :=
  .next (if s.falls (.periodChannelWatchExpiry c) then s.modPeriod c (·.die s.now) else s)

/-! ## Call points (R11, R58) -/

def Fiu.call (x : Fiu) : CallPoint → CallCounter
  | .cp1 => x.call1
  | .cp2 => x.call2

def State.setCall (s : State) (p : CallPoint) (c : CallCounter) : State :=
  match p with
  | .cp1 => s.setFiu { s.fiu with call1 := c }
  | .cp2 => s.setFiu { s.fiu with call2 := c }

/-- A falling edge is accepted when none was accepted in the preceding 50 ms. -/
def CallCounter.accepts (c : CallCounter) (now : Nat) : Bool :=
  match c.acceptedAt with
  | none => true
  | some t => t + Config.debounce < now

/-- A CALL event at the INC (R58). -/
def State.callEvent (s : State) : State :=
  if s.inc.call.state = .normal then
    ((s.modInc fun x => { x with call := .latch }).considerLatch (some 2)).judgeAlert
  else s

/-- CALL_POINT_EDGE (R11): counted from leaving LOAD; in CONFIG_INVALID without an event. -/
def execCallPointEdge (p : CallPoint) (s : State) : Out :=
  .next (
    let c := s.fiu.call p
    if s.life ≠ .load ∧ c.accepts s.now = true then
      let s' := s.setCall p { count := satInc c.count, acceptedAt := some s.now }
      if s.active then s'.callEvent.finish else s'
    else s)

/-! ## Tachometer and drive fault (R12, R14) -/

/-- The count of an edge: A leads B when the two differ after an edge of A, or agree after an edge of B. -/
def FanInput.direction (x : FanInput) (a b : Bool) : Int :=
  match a != x.phaseA, b != x.phaseB with
  | true, true => 0
  | false, false => 0
  | true, false => if a = b then -1 else 1
  | false, true => if a = b then 1 else -1

def FanInput.turn (x : FanInput) (a b : Bool) : FanInput :=
  { x with phaseA := a, phaseB := b, count := countBy x.count (x.direction a b) }

/-- TACHOMETER_EDGE (R12): in LOAD, also one that waits, and of a fan not installed, only the levels are followed (R18
against R12: log 39). -/
def execTachometerEdge (f : FanId) (a b : Bool) (s : State) : Out :=
  .next (
    if s.life ≠ .load ∧ s.installed f = true then s.modFanIn f (·.turn a b)
    else s.modFanIn f fun x => { x with phaseA := a, phaseB := b })

/-- P and rated speed of a fan from the store bytes as they stand, each limited to its range (R12). -/
def storePulses (m : Memory) (f : FanId) : Nat := clampNat (m.u8 (0x40 + 6 * f.val + 4)) 1 8
def storeSpeed (m : Memory) (f : FanId) : Nat := clampNat (m.u16 (0x40 + 6 * f.val + 2)) 900 3000

/-- TACH_WINDOW_TIMER_EXPIRY, in CONFIG_INVALID (R12). -/
def execTachWindowTimerExpiry (s : State) : Out :=
  .next (if s.falls .tachWindowTimerExpiry then
    let s' := s.closeWindows (storePulses s.cst.store) (storeSpeed s.cst.store)
    s'.setFiu { s'.fiu with windowDue := some (s.now + Config.samplePeriod) }
  else s)

/-- A new input level starts the 50 ms, or a return discards it (R14). -/
def FanInput.faultInput (x : FanInput) (level : Bool) (now : Nat) : FanInput :=
  { x with
    faultLevel := level
    differsFrom := if level = x.debounced then none else some (x.differsFrom.getD now) }

/-- DRIVE_FAULT_INPUT_CHANGE (R14). A fan not installed is followed too, so that store byte 5Ch may install it in
CONFIG_INVALID; it starts from the level at release (the model's choice: log 38). -/
def execDriveFaultInputChange (f : FanId) (active : Bool) (s : State) : Out :=
  .next (
    if s.resetHeld then s.modFanIn f fun x => { x with faultLevel := active }
    else s.modFanIn f (·.faultInput active s.now))

/-- DRIVE_FAULT_DEBOUNCE_EXPIRY: the event goes to the channel in LISTEN and RUN (R14, R128). -/
def execDriveFaultDebounceExpiry (f : FanId) (s : State) : Out :=
  .next (if s.falls (.driveFaultDebounceExpiry f) then
    let level := (s.fanIn f).faultLevel
    let s' := s.modFanIn f fun x => { x with debounced := level, differsFrom := none }
    if s.active then (s'.driveFaultChange f level).finish else s'
  else s)

/-- The pending duty is taken at a period boundary (R15). -/
def FanInput.boundary (x : FanInput) (now : Nat) : FanInput :=
  { x with duty := x.pendingDuty.getD x.duty, pendingDuty := none, periodFrom := now }

/-- PWM_PERIOD_BOUNDARY (R15). -/
def execPwmPeriodBoundary (f : FanId) (s : State) : Out :=
  .next (if s.falls (.pwmPeriodBoundary f) then s.modFanIn f (·.boundary s.now) else s)

end Sys2Proof.Machine
end

