-- ==== Sys2Proof/Machine/Life.lean ====
section
/-! DEFINITION. Node life (spec/10 10.6): the two resets, LOAD with its checks and the latching of the running copy, the
entry to RUN. -/

namespace Sys2Proof.Machine

/-! ## The settings tables (spec/10, R177) -/

/-- A numeric setting: its store address, its bytes (1 or 2), its range. -/
structure Numeric where
  addr : Nat
  wide : Bool
  lo   : Nat
  hi   : Nat
  deriving DecidableEq, Repr

def Numeric.raw (r : Numeric) (m : Memory) : Nat := if r.wide then m.u16 r.addr else m.u8 r.addr
/-- Copied and limited to its range (R169). -/
def Numeric.latch (r : Numeric) (m : Memory) : Nat := clampNat (r.raw m) r.lo r.hi
/-- Changed at LOAD. -/
def Numeric.changed (r : Numeric) (m : Memory) : Bool := r.latch m != r.raw m

def numN : Numeric := ⟨0x00, false, 4, 96⟩
def numVt : Numeric := ⟨0x01, true, 150, 600⟩
def numKp : Numeric := ⟨0x03, true, 0, 4095⟩
def numKi : Numeric := ⟨0x05, true, 0, 4095⟩
def numInitial : Numeric := ⟨0x07, false, 0, 100⟩
def numU : Numeric := ⟨0x08, false, 0, 2⟩
def numD : Numeric := ⟨0x09, false, 1, 8⟩
def numL : Numeric := ⟨0x0C, false, 1, 4⟩
def numExposure : Numeric := ⟨0x0D, true, 150, 400⟩
def numSmokePre : Numeric := ⟨0x0F, true, 0, 20000⟩
def numSmokeAlarm : Numeric := ⟨0x11, true, 0, 20000⟩
def numSmokeConfirm : Numeric := ⟨0x13, false, 5, 60⟩
def numHeatPre : Numeric := ⟨0x14, true, 40, 400⟩
def numHeatAlarm : Numeric := ⟨0x16, true, 40, 400⟩
def numRise : Numeric := ⟨0x18, false, 1, 100⟩
def numGuard : Numeric := ⟨0x19, true, 0, 300⟩
def numStartLimit : Numeric := ⟨0x58, false, 10, 90⟩
def numSMin : Numeric := ⟨0x59, false, 20, 60⟩
/-- The section index, in a tunnel of n sections. -/
def numOwn (n : Nat) : Numeric := ⟨0x5A, false, 1, n⟩
def numGroup : Numeric := ⟨0x5B, false, 1, 16⟩
def numInstalled : Numeric := ⟨0x5C, false, 0, 4⟩

/-- The first address of a fan's settings. -/
def fanBase (f : FanId) : Nat := 0x40 + 6 * f.val
def numThrust (f : FanId) : Numeric := ⟨fanBase f, true, 20, 300⟩
def numSpeed (f : FanId) : Numeric := ⟨fanBase f + 2, true, 900, 3000⟩
def numPulses (f : FanId) : Numeric := ⟨fanBase f + 4, false, 1, 8⟩
def numReverse (f : FanId) : Numeric := ⟨fanBase f + 5, false, 50, 100⟩

/-- The fan's four settings: limited when it is installed, else copied (R169). -/
def fanSettings (m : Memory) (installed : Nat) (f : FanId) : FanSettings :=
  if f.val < installed then
    ⟨(numThrust f).latch m, (numSpeed f).latch m, (numPulses f).latch m, (numReverse f).latch m⟩
  else ⟨(numThrust f).raw m, (numSpeed f).raw m, (numPulses f).raw m, (numReverse f).raw m⟩

/-- Slope and offset as stored. -/
def calibrationAt (m : Memory) (a : Nat) : Calibration := ⟨m.i32 a, m.i32 (a + 4)⟩

/-- The settings as latched (R169). -/
def latchSettings (m : Memory) : Settings :=
  { n := numN.latch m, vt := numVt.latch m, kp := numKp.latch m, ki := numKi.latch m
    initialDemand := numInitial.latch m, u := numU.latch m, d := numD.latch m
    rule := (directionRuleOf (m.u8 0x0A)).getD .nearPortal
    dflt := (directionOf (m.u8 0x0B)).getD .towardB
    startsLimit := numL.latch m, exposure := numExposure.latch m, smokePre := numSmokePre.latch m
    smokeAlarm := numSmokeAlarm.latch m, smokeConfirm := numSmokeConfirm.latch m
    heatPre := numHeatPre.latch m, heatAlarm := numHeatAlarm.latch m, riseAlarm := numRise.latch m
    guard := numGuard.latch m, own := (numOwn (numN.latch m)).latch m, group := numGroup.latch m
    installed := numInstalled.latch m
    fans := #v[fanSettings m (numInstalled.latch m) 0, fanSettings m (numInstalled.latch m) 1,
               fanSettings m (numInstalled.latch m) 2, fanSettings m (numInstalled.latch m) 3]
    startLimit := numStartLimit.latch m, sMin := numSMin.latch m
    calAnemo := calibrationAt m 0x60, calSmoke := calibrationAt m 0x68, calTemp := calibrationAt m 0x70 }

/-- The numeric settings that LOAD checks. -/
def numerics (n installed : Nat) : List Numeric :=
  [numN, numVt, numKp, numKi, numInitial, numU, numD, numL, numExposure, numSmokePre, numSmokeAlarm]
  ++ [numSmokeConfirm, numHeatPre, numHeatAlarm, numRise, numGuard, numStartLimit, numSMin, numOwn n, numGroup,
    numInstalled]
  ++ (allFans.filter (·.val < installed)).flatMap fun f => [numThrust f, numSpeed f, numPulses f, numReverse f]

/-- The first addresses of the settings changed at LOAD (R169, R175). -/
def changedSettings (m : Memory) : List Nat :=
  ((numerics (numN.latch m) (numInstalled.latch m)).filter (·.changed m)).map Numeric.addr
  ++ (if (directionRuleOf (m.u8 0x0A)).isNone then [0x0A] else [])
  ++ (if (directionOf (m.u8 0x0B)).isNone then [0x0B] else [])

/-- The 27 setting bytes of the tunnel-wide sub-block of given settings (R177). -/
def tunnelBytes (c : Settings) : List Byte :=
  [byteOf c.n] ++ le16 c.vt ++ le16 c.kp ++ le16 c.ki
  ++ [byteOf c.initialDemand, byteOf c.u, byteOf c.d, byteOf c.rule.code, byteOf c.dflt.code, byteOf c.startsLimit]
  ++ le16 c.exposure ++ le16 c.smokePre ++ le16 c.smokeAlarm ++ [byteOf c.smokeConfirm]
  ++ le16 c.heatPre ++ le16 c.heatAlarm ++ [byteOf c.riseAlarm] ++ le16 c.guard

/-- The running copy (R169); the tag is the CRC-16 over 0000h–003Dh as latched (R178). -/
def latchRunning (m : Memory) : Running :=
  let c := latchSettings m
  { settings := c, clamps := changedSettings m, tag := crc16 (tunnelBytes c ++ m.bytes 0x1B 35)
    tunnelCheck := m.u16 0x3E, nodeCheck := m.u16 0xBE }

/-- LOAD's checks, in order (R169, R178). -/
def loadCheck (m : Memory) : LoadCause :=
  if m.u16 0x3E ≠ crc16 (m.bytes 0 62) then .tunnelCrc
  else if m.u16 0xBE ≠ crc16 (m.bytes 0x40 126) then .nodeCrc
  else if m.u8 0 < 4 ∨ 96 < m.u8 0 then .tunnelSize
  else if m.u8 0x5A < 1 ∨ m.u8 0 < m.u8 0x5A then .sectionIndex
  else .none

/-! ## Resets (R18, R35, R52, R54, R70, R112, R114, R150, R161, R172) -/

/-- Entries of the write queue that a reset leaves: the one in programming (R172). -/
def Spt.keptQueue (x : Spt) (engine : Option Job) : List (BitVec 16 × Byte) :=
  match engine with
  | some ⟨.portEntry, _⟩ => x.queue.take 1
  | _ => []

/-- The port at either reset (R172). -/
def Spt.reset (x : Spt) (engine : Option Job) : Spt :=
  { x with queue := x.keptQueue engine, refused := false, snap := none, second := false, cycle := none }

/-- The port's mode, pointers and phase at power-on reset (R164). -/
def Spt.powerOn (x : Spt) : Spt := { x with dual := false, select := false, phase := false, rp := 0, wp := 0 }

/-- The levels of the FIU's pins as last told. -/
def Fiu.pins (x : Fiu) : PinLevels :=
  { anemometer := x.anemo.level
    phaseA := BitVec.ofNat 4 (allFans.map fun f => bitNat x.fans[f].phaseA f.val).sum
    phaseB := BitVec.ofNat 4 (allFans.map fun f => bitNat x.fans[f].phaseB f.val).sum
    driveFault := BitVec.ofNat 4 (allFans.map fun f => bitNat x.fans[f].faultLevel f.val).sum }

/-- Every block but the port and the store takes its reset state, and the node is in LOAD. -/
def State.resetBlocks (s : State) (pins : PinLevels) : State :=
  { s with
    signals := .clear, life := .load, listenUntil := none, running := none, fiu := .atReset pins s.now
    liu := .atReset s.now s.liu.frames, svt := .atReset, inc := .atReset, tal := .atReset, fch := .atReset
    sq := .atReset, ord := .atReset }

/-- What a reset does as it is asserted: the item in programming completes, nothing else waits (R167, R172). -/
def State.assertReset (s : State) : State :=
  { s.resetBlocks s.fiu.pins with spt := s.spt.reset s.cst.engine, cst := { s.cst with updates := [] } }

/-- Power-on reset is asserted: mode, pointers and phase return to their defaults (R164). -/
def State.assertPowerOn (s : State) : State :=
  { s.assertReset with resets := { s.resets with powerOn := true }, spt := s.assertReset.spt.powerOn }

/-- RESET_N goes low: the port's mode, pointers and phase stay (R164). -/
def State.assertResetN (s : State) : State := { s.assertReset with resets := { s.resets with resetN := true } }

/-- A reset is released, `left` staying in force: the blocks start from the pins' levels. LOAD begins, and PRDY may rise, only
when none is in force (R162; power-on reset as RESET_N, and the wait for the last release: log 8). -/
def State.releaseReset (s : State) (left : Resets) (pins : PinLevels) : State :=
  { s.resetBlocks pins with resets := left }

/-- POWER_ON_RESET (R164, R172). A release that follows no assertion acts as a whole reset (the model's choice: log 8). -/
def execPowerOnReset (edge : ResetEdge) (s : State) : Out :=
  .next (
    match edge with
    | .asserted => s.assertPowerOn
    | .released pins =>
      let t := (if s.resets.powerOn then s else s.assertPowerOn).releaseReset { s.resets with powerOn := false } pins
      t.setSpt t.spt.powerOn)

/-- RESET_N (R172). A release that follows no assertion acts as a whole reset (the model's choice: log 8). -/
def execResetN (edge : ResetEdge) (s : State) : Out :=
  .next (
    match edge with
    | .asserted => s.assertResetN
    | .released pins =>
      (if s.resets.resetN then s else s.assertResetN).releaseReset { s.resets with resetN := false } pins)

/-! ## LOAD (R169, R170) -/

/-- A channel as it comes up at leaving LOAD, with its counters and latch (R135 to R137). -/
def Fan.loaded (m : Memory) (installed : Nat) (f : FanId) : Fan :=
  let x : Fan := { Fan.atReset with
    starts := BitVec.ofNat 24 (m.u24 (Item.startCounter f).addr)
    faults := BitVec.ofNat 24 (m.u24 (Item.faultCounter f).addr)
    minutes := BitVec.ofNat 24 (m.u24 (Item.runMinutes f).addr)
    minutesWritten := BitVec.ofNat 24 (m.u24 (Item.runMinutes f).addr) }
  if f.val < installed ∧ m.u8 (Item.latch f).addr ≠ 0 then
    { x with state := .lockedOut, lockout := .latchedAtStart }
  else x

/-- LOAD passes: the running copy is latched, the blocks read their stored values, LISTEN begins (R169, R171). -/
def State.enterListen (s : State) : State :=
  let m := s.cst.store
  let r := latchRunning m
  let k := r.settings.installed
  (({ s with
      life := .listen, loadCause := .none, running := some r
      listenUntil := some (s.now + Config.listenTime)
      fiu := { s.fiu with
        sampleDue := some (s.now + Config.samplePeriod), windowDue := none
        fans := #v[{ s.fiu.fans[0] with count := 0 }, { s.fiu.fans[1] with count := 0 },
                   { s.fiu.fans[2] with count := 0 }, { s.fiu.fans[3] with count := 0 }] }
      fch := { s.fch with fans := #v[.loaded m k 0, .loaded m k 1, .loaded m k 2, .loaded m k 3] }
      inc := { s.inc with
        declCounter := BitVec.ofNat 24 (m.u24 Item.declCounter.addr)
        lastDrawn := BitVec.ofNat 8 (m.u8 Item.declCounter.addr) }
      ord := { s.ord with inhibit := m.u8 Item.ownInhibit.addr != 0 } } : State).wantAvail).finish

/-- LOAD fails: CONFIG_INVALID (R170). The working own inhibit, the fans' latches, run minutes and counters and the declaration
counter are not read from the store and stay at their reset values (the model's choice: log 49). -/
def State.enterConfigInvalid (s : State) (c : LoadCause) : State := { s with life := .configInvalid, loadCause := c }

/-- LOAD (R169). -/
def execLoad (s : State) : Out :=
  .next (if s.falls .load then
    match loadCheck s.cst.store with
    | .none => s.enterListen
    | c => s.enterConfigInvalid c
  else s)

/-! ## ENTRY_TO_RUN (R171) -/

/-- The highest severity among the local detectors still latched (R65). -/
def Inc.deferred (x : Inc) : Option Nat :=
  if x.heat.latched then some 3 else if x.call.latched then some 2 else if x.smoke.latched then some 1 else none

/-- ENTRY_TO_RUN: the deferred declaration, the lead, the plan, the fans in OFF, the first report (R171). -/
def execEntryToRun (s : State) : Out :=
  .next (if s.falls .entryToRun then
    let s' : State := { s with life := .run, listenUntil := none }
    (((s'.considerLatch s'.inc.deferred).reevalLead).wantPlan.wantReport).finish
  else s)

end Sys2Proof.Machine
end

