-- ==== Sys2Proof/Machine/Records.lean ====
section
/-! DEFINITION. The record space (R168, R175 to R177): every region as the byte list its layout gives, formed from the
state as it stands, and the byte at an address. -/

namespace Sys2Proof.Machine

/-! ## Conventions of R176 -/

def zeros (n : Nat) : List Byte := List.replicate n 0

/-- A list of bytes as the first of n bytes, the rest 0. -/
def padTo (n : Nat) (l : List Byte) : List Byte := l ++ zeros (n - l.length)

/-- ms since a time, or 65535 when absent: Section View, gateway table, exposure times. -/
def sinceFull (now : Nat) (t : Option Nat) : Nat :=
  match t with
  | some t => elapsed16 now t
  | none => Config.elapsedLimit

/-- ms since a time, or 0 when absent. -/
def sinceOrZero (now : Nat) (t : Option Nat) : Nat :=
  match t with
  | some t => elapsed16 now t
  | none => 0

def State.left (s : State) (t : Option Nat) : Nat := remainingMs s.now t

/-! ## Section View (2000h, 2C00h) -/

/-- The 28 payload bytes an entry shows: a peer's as received (log 21), the own as they would be sent now. -/
def State.entryPayload (s : State) (k : Nat) : List Byte :=
  if (s.entry k).state = .empty then zeros 28
  else if k = s.own then (encodeReport (s.entry k).report).take 28
  else (s.entry k).payload

/-- A Section View entry, 32 bytes. Bits 7:5 of byte 0, with no field, read 0 (the model's choice: log 47). -/
def State.entryRecord (s : State) (k : Nat) : List Byte :=
  if isSection s.cfg.n k then
    padTo 32 ([byteOf ((s.entry k).state.code + bitNat (s.entry k).tagMatch 2 + 8 * (s.entry k).pattern s.now)]
      ++ le16 (s.age k) ++ s.entryPayload k)
  else zeros 32

/-- Arrival fields, 8 bytes. Bits 7:3 of byte 6, with no field, read 0 (the model's choice: log 47). -/
def State.arrivalRecord (s : State) (k : Nat) : List Byte :=
  if isSection s.cfg.n k then
    let e := s.entry k
    le16 (sinceFull s.now (e.origin.map OriginRec.time)) ++ le16 (sinceFull s.now e.heard1)
    ++ le16 (sinceFull s.now e.heard2)
    ++ [byteOf (bitNat e.origin.isSome 0 + bitNat e.heard1.isSome 1 + bitNat e.heard2.isSome 2),
        (e.origin.map OriginRec.seq).getD 0]
  else zeros 8

/-! ## Incident (3000h to 304Fh) -/

def demandBytes (now : Nat) (d : Demand) : List Byte :=
  le24 d.t
  ++ (match d.source with
      | some x => [byteOf x.station] ++ le16 (elapsed16 now x.time) ++ [x.seq]
      | none => [0, 0, 0, 0])
  ++ leInt16 (d.ePrev.getD 0)

def pendingBytes (now : Nat) (p : PendingTriple) : List Byte :=
  [byteOf p.triple.dir.code, p.triple.version, byteOf p.triple.source] ++ le16 (elapsed16 now p.time)

/-- e_prev of a demand part. -/
def Held.ePrev (h : Held) : Option Int :=
  match h.demand with
  | some d => d.ePrev
  | none => none

/-- The held incident record, 32 bytes; past the used end 0 (R168). Bits 7:4 of byte 0, with no field, read 0 (the model's
choice: log 47). -/
def State.heldRecord (s : State) : List Byte :=
  match s.inc.held with
  | none => zeros 32
  | some h =>
    padTo 32 (
      [byteOf (1 + bitNat h.demand.isSome 1 + bitNat h.ePrev.isSome 2 + bitNat h.pending.isSome 3),
        byteOf h.id.station, h.id.number, byteOf h.severity, byteOf h.triple.dir.code, h.triple.version,
        byteOf h.triple.source, byteOf h.locus, byteOf (h.lo s.cfg), byteOf (h.hi s.cfg)]
      ++ (match h.demand with
          | some d => demandBytes s.now d
          | none => zeros 9)
      ++ (match h.pending with
          | some p => pendingBytes s.now p
          | none => zeros 5))

/-- The retired list, 16 bytes. -/
def State.retiredBytes (s : State) : List Byte :=
  padTo 16 (s.inc.retired.flatMap fun x => [byteOf x.station, x.number])

/-- 3030h to 304Fh; past the used end 0 (R168). Bits 7:5 of 3033h, with no field, read 0 (the model's choice: log 47). -/
def State.incidentBytes (s : State) : List Byte :=
  let x := s.inc
  padTo 32 (
    [byteOf x.state.code, byteOf (x.smoke.state.code + 16 * x.call.state.code),
      byteOf (x.heat.state.code + 16 * x.operator.state.code),
      byteOf (bitNat x.smoke.rearm 0 + bitNat x.heat.rearm 1 + bitNat (x.smoke.state == .confirming) 2
        + bitNat x.heat.since.isSome 3 + bitNat x.lead 4)]
    ++ le16 (s.left x.alertClear) ++ le24 (s.left x.guardUntil) ++ le16 (s.left x.controlDue)
    ++ le16 (s.left x.declarerDue) ++ le16 (sinceOrZero s.now x.smoke.since)
    ++ le16 (sinceOrZero s.now x.heat.since) ++ le16 x.rejected.toNat ++ le16 x.refused.toNat
    ++ [byteOf x.retired.length])

/-! ## Fan records (3100h) -/

/-- An rpm in its two bytes: a value past 16 bits has no stated bytes, so they are free (log 36). -/
def State.rpmBytes (s : State) (rpm : Int) : List Byte :=
  if inRange rpm (-32768) 32767 then leInt16 rpm else [Config.freeByte s.draws, Config.freeByte (s.draws + 1)]

def Target.bytes : Target → List Byte
  | .off => [0, 0, 0]
  | .run d v => [1, byteOf d.code, byteOf v]

/-- A fan record, 64 bytes; past its last field 0 (R168, log 48). Bits 7:4 of byte 10, with no field, read 0 (the model's
choice: log 47). Outside STARTING and RUNNING bytes 4 and 5 read the direction and speed last driven (the model's choice:
log 52). -/
def State.fanRecord (s : State) (f : FanId) : List Byte :=
  if s.installed f then
    let x := s.fan f
    let i := s.fanIn f
    let m := s.cst.store
    padTo 64 (
      [byteOf x.state.code] ++ x.target.bytes ++ [byteOf x.cmdDir.code, byteOf x.cmdSpeed] ++ leInt16 i.measured
      ++ s.rpmBytes i.rpm
      ++ [byteOf (bitNat i.debounced 0 + bitNat (s.fch.claim == some f) 1 + bitNat x.coastOverrun 2
            + bitNat (m.u8 (Item.latch f).addr != 0) 3),
          byteOf x.faultCount, byteOf x.lastFault.code, byteOf x.lockout.code]
      ++ le24 (s.left x.brakeUntil) ++ le24 (s.left x.staggerUntil) ++ le24 (s.left x.startUntil)
      ++ le24 (s.left x.coastUntil) ++ le24 (s.left x.holdUntil)
      ++ le16 (sinceOrZero s.now x.speedLossFrom) ++ le16 (sinceOrZero s.now x.directionFrom)
      ++ le24 (x.accumulated s.now / 1000) ++ le24 x.minutes.toNat
      ++ [byteOf i.duty, byteOf (i.pendingDuty.getD 0)]
      ++ m.bytes (Item.startCounter f).addr 9)
  else zeros 64

/-! ## Start queue (3200h, 32C0h) -/

/-- A start queue entry, 8 bytes; a place past the end of the list reads 0. The own-entry mark, to which R176 gives a byte
and no code, reads 01h when set (the model's choice: log 45), and the byte without field reads 0 (the model's choice:
log 47). -/
def State.queueRecord (s : State) (i : Nat) : List Byte :=
  match s.sq.list[i]? with
  | none => zeros 8
  | some e =>
    [byteOf e.station, byteOf e.fan, e.number, byteOf (bitNat e.go 0)] ++ le16 (elapsed16 s.now e.heardAt)
    ++ [byteOf (bitNat (isOwnEntry s.own e) 0), 0]

/-- The own claim and queue status, 16 bytes (R151); past the used end 0 (R168). Bits 7:2 of 32C4h, with no field, read 0
(the model's choice: log 47). -/
def State.claimBytes (s : State) : List Byte :=
  let q := s.sq
  padTo 16 (
    [byteOf q.own.code, byteOf ((q.ownFan.map fun f => f.val + 1).getD 0), q.ownNumber,
      byteOf (s.position.getD 255), byteOf (bitNat s.position.isSome 0 + bitNat q.overflow 1)]
    ++ le16 (s.left q.resendDue) ++ [byteOf q.list.length]
    ++ le16 q.rejected.toNat ++ le16 q.dropped.toNat ++ le16 q.expired.toNat)

/-! ## Lines and gateways (3300h, 3340h) -/

def slotAttempts (y : Slot) : Nat :=
  match y.cur with
  | some c => c.attempts
  | none => 0

/-- A line's statistics, 32 bytes; the three slots in the order of R22 (log 27). The probe outcome, to which R176 gives a
byte and no code, reads 01h when set (the model's choice: log 45). Past its last field 0 (R168, log 48). -/
def State.lineBytes (s : State) (x : Line) : List Byte :=
  padTo 32 (
    [byteOf x.state.code, byteOf x.drops, byteOf (slotAttempts x.report), byteOf (slotAttempts x.incident),
      byteOf (slotAttempts x.claim), byteOf (bitNat x.probeOk 0), s.liu.seq]
    ++ le16 x.accepted.toNat ++ le16 x.length.toNat ++ le16 x.crc.toNat ++ le16 x.origin.toNat
    ++ le16 x.noise.toNat ++ le16 x.collisions.toNat ++ le16 x.dropped.toNat ++ le16 x.downs.toNat)

/-- A gateway table entry, 8 bytes; past its last field 0 (R168, log 48). Bits 7:2 of byte 1, with no field, read 0 (the
model's choice: log 47). -/
def State.gatewayRecord (s : State) (x : Gateway) : List Byte :=
  padTo 8 (
    [(x.origin.map OriginRec.seq).getD 0, byteOf (bitNat x.origin.isSome 0 + bitNat x.executed.isSome 1)]
    ++ le16 (sinceFull s.now (x.origin.map OriginRec.time)) ++ [x.executed.getD 0])

/-! ## Node status (3360h) -/

/-- How many sections satisfy a test. -/
def State.countSections (s : State) (p : Nat → Bool) : Byte := byteOf (s.cfg.sections.filter p).length

/-- 3360h to 336Bh: life, LOAD cause, view counts (R51). -/
def State.viewBytes (s : State) : List Byte :=
  let inState (x : EntryState) : Byte := s.countSections fun k => (s.entry k).state == x
  [byteOf s.life.code, byteOf s.loadCause.code, inState .empty, inState .fresh, inState .stale, inState .lost,
    s.countSections fun k => (s.entry k).state == .fresh && !(s.entry k).tagMatch,
    s.countSections fun k => (s.entry k).pattern s.now == 1 || (s.entry k).pattern s.now == 2,
    s.countSections s.countable, s.countSections s.countableWithVelocity]
  ++ le16 s.svt.rejected.toNat

/-- 336Ch to 337Fh: orders and exposure. Bits 7:2 of 336Ch and 3375h to 3377h, with no field, read 0 (the model's choice:
log 47). -/
def State.orderBytes (s : State) : List Byte :=
  [byteOf (bitNat s.ord.inhibit 0 + bitNat s.ord.vent.isSome 1)]
  ++ (match s.ord.vent with
      | some v =>
        [byteOf v.gateway, v.number, byteOf v.first, byteOf v.last, byteOf v.dir.code, byteOf v.speed]
        ++ le16 (ceilDiv (v.ends - s.now) 1000000)
      | none => zeros 8)
  ++ zeros 3 ++ le16 s.ord.refused.toNat ++ le16 s.ord.repeated.toNat
  ++ le16 (sinceFull s.now s.fch.exposureFrom) ++ le16 (sinceFull s.now s.fch.lastExposure)

/-- The last observation's smoke and temperature. -/
def State.lastSmoke (s : State) : Option Int :=
  match s.fiu.obs with
  | some o => o.smoke
  | none => none

def State.lastTemp (s : State) : Option Int :=
  match s.fiu.obs with
  | some o => o.temperature
  | none => none

/-- 3380h to 339Fh: the measured channels. Bit 7 of 3390h and 3391h to 3393h, with no field, read 0 (the model's choice:
log 47). -/
def State.channelBytes (s : State) : List Byte :=
  padTo 32 (
    le16 s.fiu.anemo.raw ++ leInt16 (s.fiu.anemoSample.getD 0) ++ le32 s.fiu.smoke.raw
    ++ leInt16 (s.lastSmoke.getD 0) ++ le32 s.fiu.temp.raw ++ leInt16 (s.lastTemp.getD 0)
    ++ [byteOf (s.fiu.anemo.state.code + bitNat s.fiu.smoke.dead 2 + bitNat s.fiu.temp.dead 3
          + bitNat s.fiu.anemoSample.isSome 4 + bitNat s.lastSmoke.isSome 5 + bitNat s.lastTemp.isSome 6)])

/-- The plan record's figures, 25 bytes (log 24). Bits 7:2 of 33A0h, with no field, read 0 (the model's choice: log 47). -/
def Plan.bytes (p : Plan) : List Byte :=
  [byteOf (1 + bitNat p.basisHeld 1), byteOf p.dir.code] ++ le24 p.demand ++ le24 p.tcap ++ [byteOf p.eligible]
  ++ le24 p.before ++ le16 p.share ++ [byteOf p.h] ++ le16 (p.f1.getD 0)
  ++ [byteOf (p.fMin.getD 0), byteOf (p.threshold.getD 0)] ++ le16 (p.f.getD 0)
  ++ [byteOf p.k, byteOf (p.speed.getD 0)] ++ le16 p.derating

/-- The call-point counters, readable in CONFIG_INVALID (R11, R18): low byte first, call point 1 then 2, in the first four
bytes of the node status to which R176 gives no field (the model's choice: log 37). -/
def State.callBytes (s : State) : List Byte :=
  if s.life = .configInvalid then le16 s.fiu.call1.count.toNat ++ le16 s.fiu.call2.count.toNat else zeros 4

/-- 33A0h to 33FFh: the plan, the targets, the call-point counters, the counter-full flags. 33C9h to 33CFh, with no field,
read 0 (the model's choice: log 47). -/
def State.planBytes (s : State) : List Byte :=
  padTo 96 (
    (match s.tal.plan with
      | some p => p.bytes
      | none => zeros 25)
    ++ (allFans.flatMap fun f => (s.fch.planTargets[f]).bytes) ++ s.callBytes ++ zeros 7 ++ le16 s.fullFlags)

/-- 3360h to 33FFh. -/
def State.statusBytes (s : State) : List Byte := s.viewBytes ++ s.orderBytes ++ s.channelBytes ++ s.planBytes

/-! ## Running copy (1000h, 1100h, 11C0h) -/

def fanSettingBytes (x : FanSettings) : List Byte := le16 x.thrust ++ le16 x.speed ++ [byteOf x.pulses, byteOf x.reverse]

def calibrationBytes (c : Calibration) : List Byte := leInt32 c.slope ++ leInt32 c.offset

/-- 1000h to 10BFh: the settings in force where the store holds them, fill 0, the check codes as stored (log 23). -/
def Running.bytes (r : Running) : List Byte :=
  let c := r.settings
  padTo 62 (tunnelBytes c) ++ le16 r.tunnelCheck
  ++ fanSettingBytes c.fans[0] ++ fanSettingBytes c.fans[1] ++ fanSettingBytes c.fans[2]
  ++ fanSettingBytes c.fans[3]
  ++ [byteOf c.startLimit, byteOf c.sMin, byteOf c.own, byteOf c.group, byteOf c.installed] ++ zeros 3
  ++ calibrationBytes c.calAnemo ++ calibrationBytes c.calSmoke ++ calibrationBytes c.calTemp
  ++ zeros 70 ++ le16 r.nodeCheck

/-- The running copy's byte at 1000h + a; 0 when nothing is latched (R170). -/
def State.runningByte (s : State) (a : Nat) : Byte :=
  match s.running with
  | some r => r.bytes.getD a 0
  | none => 0

def State.clampByte (s : State) (a : Nat) : Byte :=
  match s.running with
  | some r => if r.clamps.contains a then 1 else 0
  | none => 0

def State.tagByte (s : State) (i : Nat) : Byte :=
  match s.running with
  | some r => (le16 r.tag).getD i 0
  | none => 0

/-! ## The byte at an address (R175) -/

/-- The record space's bytes as they stand; an address with no content reads 0. -/
def State.liveByte (s : State) (a : Nat) : Byte :=
  if a < 0x400 then s.cst.store.read a
  else if a < 0x1000 then 0
  else if a < 0x10C0 then s.runningByte (a - 0x1000)
  else if a < 0x1100 then 0
  else if a < 0x11C0 then s.clampByte (a - 0x1100)
  else if a < 0x11C2 then s.tagByte (a - 0x11C0)
  else if a < 0x2000 then 0
  else if a < 0x2C00 then (s.entryRecord ((a - 0x2000) / 32 + 1)).getD ((a - 0x2000) % 32) 0
  else if a < 0x2F00 then (s.arrivalRecord ((a - 0x2C00) / 8 + 1)).getD ((a - 0x2C00) % 8) 0
  else if a < 0x3000 then 0
  else if a < 0x3020 then s.heldRecord.getD (a - 0x3000) 0
  else if a < 0x3030 then s.retiredBytes.getD (a - 0x3020) 0
  else if a < 0x3050 then s.incidentBytes.getD (a - 0x3030) 0
  else if a < 0x3100 then 0
  else if a < 0x3200 then (s.fanRecord (Fin.ofNat 4 ((a - 0x3100) / 64))).getD ((a - 0x3100) % 64) 0
  else if a < 0x32C0 then (s.queueRecord ((a - 0x3200) / 8)).getD ((a - 0x3200) % 8) 0
  else if a < 0x32D0 then s.claimBytes.getD (a - 0x32C0) 0
  else if a < 0x3300 then 0
  else if a < 0x3320 then (s.lineBytes s.liu.l1).getD (a - 0x3300) 0
  else if a < 0x3340 then (s.lineBytes s.liu.l2).getD (a - 0x3320) 0
  else if a < 0x3360 then (s.gatewayRecord (s.gateway ((a - 0x3340) / 8 + 97))).getD ((a - 0x3340) % 8) 0
  else if a < 0x3400 then s.statusBytes.getD (a - 0x3360) 0
  else 0

/-! ## Snapshot records (R168) -/

/-- The snapshot record that holds an address: its first address and its length. A place past the used end is a record
whose bytes are 0, and its first byte fills the buffer (the model's choice: log 41). -/
def snapshotAt (a : Nat) : Option (Nat × Nat) :=
  if 0x2000 ≤ a ∧ a < 0x2C00 then some (a - (a - 0x2000) % 32, 32)
  else if 0x3000 ≤ a ∧ a < 0x3020 then some (0x3000, 32)
  else if 0x3100 ≤ a ∧ a < 0x3200 then some (a - (a - 0x3100) % 64, 64)
  else if 0x3200 ≤ a ∧ a < 0x32C0 then some (a - (a - 0x3200) % 8, 8)
  else none

/-- A record as it stands. -/
def State.snapshot (s : State) (base len : Nat) : Snapshot :=
  { base, bytes := (List.range len).map fun i => s.liveByte (base + i) }

/-- A completed read of an address: its byte, and the snapshot buffer after it (R168). -/
def State.readRecord (s : State) (a : Nat) : Byte × Option Snapshot :=
  match snapshotAt a with
  | none => (s.liveByte a, none)
  | some (base, len) =>
    if a = base then (s.liveByte a, some (s.snapshot base len))
    else
      match s.spt.snap with
      | some x => if x.base = base then (x.bytes.getD (a - base) 0, some x) else (s.liveByte a, none)
      | none => (s.liveByte a, none)

end Sys2Proof.Machine
end

