-- ==== Sys2Proof/Machine/Port.lean ====
section
/-! DEFINITION. The Service Port's cycles (spec/10 10.1 to 10.5, R179). A cycle's row is its ending edge; an edge with no
cycle of its function and direction in progress ends nothing (log 13). -/

namespace Sys2Proof.Machine

def State.modSpt (s : State) (g : Spt → Spt) : State := s.setSpt (g s.spt)

/-- The function by its code on PFN (R162). -/
def portFnOf (pfn : BitVec 2) : PortFn :=
  if pfn = 0b00 then .mode else if pfn = 0b01 then .dataInc else if pfn = 0b10 then .pointer else .dataNoInc

/-- PORT_CYCLE_BEGIN (R162): the function is latched from PFN, the direction from PRW, high for a read; no cycle begins while
PCS_N is high. -/
def execPortCycleBegin (selected : Bool) (pfn : BitVec 2) (prw : Bool) (s : State) : Out :=
  .next (if selected then s.modSpt fun x => { x with cycle := some ⟨portFnOf pfn, prw⟩ } else s)

/-- The cycle is over; the next MODE read returns byte 0 (R179). -/
def Spt.ended (x : Spt) : Spt := { x with cycle := none, second := false }

/-- A discarded write leaves the port as it was; a discarded read returns whatever stands on PD (R162, log 14). -/
def State.discard (s : State) (read : Bool) : State :=
  if read then (s.modSpt fun x => { x.ended with pd := Config.freeByte s.draws }).counted else s.modSpt Spt.ended

/-- The cycle in progress ends: discarded when it must still wait, else acted on (R162, R165). A strobe that began no
cycle (PCS_N high), or whose cycle a reset discarded (R172), ends nothing. -/
def State.endCycle (s : State) (fn : PortFn) (read : Bool) (act : State → State) : State :=
  if s.spt.cycle = some ⟨fn, read⟩ then
    if s.mustWait fn read then s.discard read else act (s.modSpt fun x => { x with cycle := none })
  else s

/-- The SERVICE_EN pin is told. -/
def State.setServiceEn (s : State) (level : Bool) : State := s.modSpt fun x => { x with serviceEn := level }

/-! ## MODE (R163, R179) -/

/-- Bit 0 turns dual mode on or off, bit 1 is the pointer select; the phase returns to low. -/
def Spt.setMode (x : Spt) (data : Byte) : Spt :=
  { x with
    dual := data.getLsbD 0, select := data.getLsbD 1, phase := false
    wp := if x.dual && !data.getLsbD 0 then x.rp else x.wp }

/-- MODE_WRITE (R163). -/
def execModeWrite (data : Byte) (s : State) : Out :=
  .next (s.endCycle .mode false fun s => s.modSpt fun x => x.ended.setMode data)

/-- The status byte the next MODE read returns (R179). -/
def State.statusByte (s : State) : Byte := if s.spt.second then s.status1 else s.status0

/-- MODE_READ: byte 0 and byte 1 by turns (R179). -/
def execModeRead (serviceEn : Bool) (s : State) : Out :=
  .next ((s.setServiceEn serviceEn).endCycle .mode true fun s =>
    s.modSpt fun x => { x with pd := s.statusByte, second := !x.second })

/-! ## POINTER (R164) -/

/-- A data byte in one byte of a pointer. -/
def loadByte (p : BitVec 16) (high : Bool) (data : Byte) : BitVec 16 :=
  if high then data ++ p.setWidth 8 else p.extractLsb' 8 8 ++ data

def Spt.loadPointer (x : Spt) (data : Byte) : Spt :=
  { x with
    rp := if x.dual && x.select then x.rp else loadByte x.rp x.phase data
    wp := if x.dual && !x.select then x.wp else loadByte x.wp x.phase data
    phase := !x.phase }

/-- POINTER_WRITE (R164). -/
def execPointerWrite (data : Byte) (s : State) : Out :=
  .next (s.endCycle .pointer false fun s => s.modSpt fun x => x.ended.loadPointer data)

/-- The byte of the read pointer that the phase selects. -/
def Spt.pointerByte (x : Spt) : Byte := if x.phase then x.rp.extractLsb' 8 8 else x.rp.setWidth 8

/-- POINTER_READ (R164). -/
def execPointerRead (s : State) : Out :=
  .next (s.endCycle .pointer true fun s =>
    s.modSpt fun x => { x.ended with pd := x.pointerByte, phase := !x.phase })

/-! ## DATA writes (R163 to R166) -/

/-- The write pointer advances; in single mode both do. -/
def Spt.advanceWrite (x : Spt) (inc : Bool) : Spt :=
  if inc then { x with wp := x.wp + 1, rp := if x.dual then x.rp else x.wp + 1 } else x

/-- A write is judged at its ending edge: refused, or appended to the write queue. -/
def State.dataWrite (s : State) (data : Byte) (inc : Bool) : State :=
  (if s.writeRefused s.spt.wp.toNat data s.spt.serviceEn then
    s.modSpt fun x => { x.ended.advanceWrite inc with refused := true }
  else
    s.modSpt fun x =>
      { x.ended.advanceWrite inc with refused := false, queue := x.queue ++ [(x.wp, data)] }).kickEngine

/-- DATA_WRITE_AUTOINCREMENT (R165, R166). -/
def execDataWriteAutoincrement (data : Byte) (serviceEn : Bool) (s : State) : Out :=
  .next ((s.setServiceEn serviceEn).endCycle .dataInc false fun s => s.dataWrite data true)

/-- DATA_WRITE_NO_INCREMENT (R165, R166). -/
def execDataWriteNoIncrement (data : Byte) (serviceEn : Bool) (s : State) : Out :=
  .next ((s.setServiceEn serviceEn).endCycle .dataNoInc false fun s => s.dataWrite data false)

/-! ## DATA reads (R164, R168) -/

/-- The read pointer advances; in single mode both do. -/
def Spt.advanceRead (x : Spt) (inc : Bool) : Spt :=
  if inc then { x with rp := x.rp + 1, wp := if x.dual then x.wp else x.rp + 1 } else x

/-- The byte at the read pointer goes to PD, the snapshot buffer follows, the pointer advances. Two draws are counted
for the bytes of an rpm past 16 bits (log 36). -/
def State.dataRead (s : State) (inc : Bool) : State :=
  let r := s.readRecord s.spt.rp.toNat
  ((s.modSpt fun x => { x.ended.advanceRead inc with pd := r.1, snap := r.2 }).counted).counted

/-- DATA_READ_AUTOINCREMENT (R168). -/
def execDataReadAutoincrement (s : State) : Out :=
  .next (s.endCycle .dataInc true fun s => s.dataRead true)

/-- DATA_READ_NO_INCREMENT (R168). -/
def execDataReadNoIncrement (s : State) : Out :=
  .next (s.endCycle .dataNoInc true fun s => s.dataRead false)

/-! ## PD during a read (R162) -/

/-- The byte that stands on PD while the port drives it: in a read cycle, from PRDY high. It follows the state until the
ending edge, whose row keeps it (the model's choice: log 43). -/
def State.drivenByte (s : State) : Option Byte :=
  match s.spt.cycle with
  | some ⟨fn, true⟩ =>
    if s.mustWait fn true then none
    else
      match fn with
      | .mode => some s.statusByte
      | .pointer => some s.spt.pointerByte
      | .dataInc | .dataNoInc => some (s.readRecord s.spt.rp.toNat).1
  | _ => none

end Sys2Proof.Machine
end

