-- ==== Sys2Proof/Machine/Store.lean ====
section
/-! DEFINITION. The Configuration Store's two completions (spec/10 10.3, 10.4) and the clearing of a lockout latch
(R134). -/

namespace Sys2Proof.Machine

/-- The byte that programming a queue entry leaves: the lock word is an OR of its three bits (R166). -/
def programmedByte (m : Memory) (a : Nat) (data : Byte) : Byte :=
  if a = 0xC0 then m.read a ||| (data &&& 7) else data

/-- The fan whose latch byte an address is. -/
def latchFan (a : Nat) : FanId := Fin.ofNat 4 (a - 0xC1)

/-- A set of the fan's latch waits in the update list (R166). -/
def State.setWaits (s : State) (f : FanId) : Bool := s.cst.updates.any fun u => u.1 == .latch f

/-- A latch clear reaches the fan (R134). -/
def State.clearLatch (s : State) (f : FanId) : State :=
  if s.channel f && (s.fan f).state == .lockedOut && !s.setWaits f then
    (s.modFan f fun x => { x.toOff with faultCount := 0, lockout := .none, lastFault := .none }).wantAvail
  else s

/-- The oldest write-queue entry is programmed and leaves the queue (R165). -/
def State.programEntry (s : State) (a : Nat) (data : Byte) (rest : List (BitVec 16 × Byte)) : State :=
  let s' := (s.setCst { s.cst with
      store := s.cst.store.write a (programmedByte s.cst.store a data), engine := none }).modSpt
    fun x => { x with queue := rest }
  if isLatchAddr a then s'.clearLatch (latchFan a) else s'

/-- QUEUE_ENTRY_PROGRAMMED (R165). -/
def execQueueEntryProgrammed (s : State) : Out :=
  .next (if s.falls .queueEntryProgrammed then
    (match s.spt.queue with
      | (a, data) :: rest => s.programEntry a.toNat data rest
      | [] => s.setCst { s.cst with engine := none }).finish
  else s)

/-- UPDATE_ITEM_PROGRAMMED: the item's new value is in the store whole (R167). -/
def execUpdateItemProgrammed (s : State) : Out :=
  .next (if s.falls .updateItemProgrammed then
    (match s.cst.engine with
      | some ⟨.item i v, _⟩ =>
        s.setCst { s.cst with store := s.cst.store.writeAll i.addr (i.bytes v), engine := none }
      | _ => s).finish
  else s)

end Sys2Proof.Machine
end

