-- ==== Sys2Proof/Machine/Dispatch.lean ====
section
/-! DEFINITION. One arm per command: its meaning. -/

namespace Sys2Proof.Machine

def exec (i : Instr) (s : State) : Host.Outcome State Fault Refusal :=
  match i with
  | .powerOnReset edge => Sys2Proof.Machine.execPowerOnReset edge s
  | .resetN edge => Sys2Proof.Machine.execResetN edge s
  | .load => Sys2Proof.Machine.execLoad s
  | .entryToRun => Sys2Proof.Machine.execEntryToRun s
  | .sampleTimerExpiry => Sys2Proof.Machine.execSampleTimerExpiry s
  | .anemometerEdge level => Sys2Proof.Machine.execAnemometerEdge level s
  | .anemometerWatchExpiry => Sys2Proof.Machine.execAnemometerWatchExpiry s
  | .periodChannelEdge c => Sys2Proof.Machine.execPeriodChannelEdge c s
  | .periodChannelWatchExpiry c => Sys2Proof.Machine.execPeriodChannelWatchExpiry c s
  | .callPointEdge p => Sys2Proof.Machine.execCallPointEdge p s
  | .tachometerEdge f a b => Sys2Proof.Machine.execTachometerEdge f a b s
  | .tachWindowTimerExpiry => Sys2Proof.Machine.execTachWindowTimerExpiry s
  | .driveFaultInputChange f active => Sys2Proof.Machine.execDriveFaultInputChange f active s
  | .driveFaultDebounceExpiry f => Sys2Proof.Machine.execDriveFaultDebounceExpiry f s
  | .pwmPeriodBoundary f => Sys2Proof.Machine.execPwmPeriodBoundary f s
  | .lineNoise l => Sys2Proof.Machine.execLineNoise l s
  | .attemptStart l idle => Sys2Proof.Machine.execAttemptStart l idle s
  | .attemptClean l => Sys2Proof.Machine.execAttemptClean l s
  | .attemptCollision l => Sys2Proof.Machine.execAttemptCollision l s
  | .attemptEchoAbsent l => Sys2Proof.Machine.execAttemptEchoAbsent l s
  | .quietWatchExpiry l => Sys2Proof.Machine.execQuietWatchExpiry l s
  | .probeTimerExpiry l => Sys2Proof.Machine.execProbeTimerExpiry l s
  | .reportTimerExpiry => Sys2Proof.Machine.execReportTimerExpiry s
  | .sectionReport l b => Sys2Proof.Machine.execSectionReport l b s
  | .entryAgeExpiry k => Sys2Proof.Machine.execEntryAgeExpiry k s
  | .incident l b => Sys2Proof.Machine.execIncident l b s
  | .startClaim l b => Sys2Proof.Machine.execStartClaim l b s
  | .declare l b => Sys2Proof.Machine.execDeclare l b s
  | .forceDirection l b => Sys2Proof.Machine.execForceDirection l b s
  | .standDown l b => Sys2Proof.Machine.execStandDown l b s
  | .inhibit l b => Sys2Proof.Machine.execInhibit l b s
  | .release l b => Sys2Proof.Machine.execRelease l b s
  | .ventRun l b => Sys2Proof.Machine.execVentRun l b s
  | .ventStop l b => Sys2Proof.Machine.execVentStop l b s
  | .ventRunExpiry => Sys2Proof.Machine.execVentRunExpiry s
  | .alertClearExpiry => Sys2Proof.Machine.execAlertClearExpiry s
  | .declarerTimerExpiry => Sys2Proof.Machine.execDeclarerTimerExpiry s
  | .guardTimerExpiry => Sys2Proof.Machine.execGuardTimerExpiry s
  | .controlIntervalExpiry => Sys2Proof.Machine.execControlIntervalExpiry s
  | .sourceTimerExpiry => Sys2Proof.Machine.execSourceTimerExpiry s
  | .brakeLimitExpiry f => Sys2Proof.Machine.execBrakeLimitExpiry f s
  | .staggerExpiry f => Sys2Proof.Machine.execStaggerExpiry f s
  | .startLimitExpiry f => Sys2Proof.Machine.execStartLimitExpiry f s
  | .coastLimitExpiry f => Sys2Proof.Machine.execCoastLimitExpiry f s
  | .faultHoldExpiry f => Sys2Proof.Machine.execFaultHoldExpiry f s
  | .queueEntryExpiry k => Sys2Proof.Machine.execQueueEntryExpiry k s
  | .resendTimerExpiry => Sys2Proof.Machine.execResendTimerExpiry s
  | .runMinuteElapsed f => Sys2Proof.Machine.execRunMinuteElapsed f s
  | .portCycleBegin selected pfn prw => Sys2Proof.Machine.execPortCycleBegin selected pfn prw s
  | .modeWrite data => Sys2Proof.Machine.execModeWrite data s
  | .modeRead serviceEn => Sys2Proof.Machine.execModeRead serviceEn s
  | .pointerWrite data => Sys2Proof.Machine.execPointerWrite data s
  | .pointerRead => Sys2Proof.Machine.execPointerRead s
  | .dataWriteAutoincrement data serviceEn => Sys2Proof.Machine.execDataWriteAutoincrement data serviceEn s
  | .dataWriteNoIncrement data serviceEn => Sys2Proof.Machine.execDataWriteNoIncrement data serviceEn s
  | .dataReadAutoincrement => Sys2Proof.Machine.execDataReadAutoincrement s
  | .dataReadNoIncrement => Sys2Proof.Machine.execDataReadNoIncrement s
  | .queueEntryProgrammed => Sys2Proof.Machine.execQueueEntryProgrammed s
  | .updateItemProgrammed => Sys2Proof.Machine.execUpdateItemProgrammed s
  | .discardedBody l body cut => Sys2Proof.Machine.execDiscardedBody l body cut s
  | .undefinedOrderKind l kind b => Sys2Proof.Machine.execUndefinedOrderKind l kind b s

end Sys2Proof.Machine
end

