-- ==== Sys2Proof/Machine/Step.lean ====
section
/-! DEFINITION. One step: the command at the front of the queue, with the queue's rest; on an empty queue the part's own
time (log 1). -/

namespace Sys2Proof.Machine

/-- The empty queue: what falls due now is put into it in a free order (log 2); when nothing is due, 1 µs passes. -/
def State.idle (s : State) : State :=
  match s.due with
  | [] => { s with now := s.now + 1 }
  | d :: ds => { s with pending := shuffle (Config.freePlace s.draws) (d :: ds), draws := s.draws + 1 }

def step (s : State) : Host.Outcome State Fault Refusal :=
  match s.pending with
  | [] => .next s.idle
  | c :: rest => exec c { s with pending := rest }

/-- No row of the opcode table gives bits: no word spells a command, and none is put into the queue (log 32). -/
def State.withFetchWord (s : State) (nbits w : Nat) : State :=
  match decodeTableWord nbits w with
  | some c => { s with pending := c :: s.pending }
  | none => s

end Sys2Proof.Machine
end

