-- ==== Sys2Proof/Safety.lean ====
section
/-! DEFINITION. The terms claims use: what the work inside an event leaves unchanged (`Keeps`), what the end of an event
leaves unchanged (`Ends`), and the invariants of the state. -/

namespace Sys2Proof.Machine

/-! ## The parts of a register group that an event's inner work never writes -/

/-- A line without its transmit slots. -/
def Line.bare (x : Line) : Line := { x with report := .empty, incident := .empty, claim := .empty }

/-- The newest frame of a slot: the next frame, else the frame in it. -/
def Slot.newest (x : Slot) : Option Copy :=
  match x.nxt with
  | some c => some c
  | none => x.cur

/-- A slot as it was, or with a newer frame: one handed over when `n` frames had been named (log 29). -/
def Slot.Offered (n : Nat) (x y : Slot) : Prop := y = x ∨ ∃ c, y.newest = some c ∧ n ≤ c.id

/-- A fan input without its pending duty. -/
def FanInput.bare (x : FanInput) : FanInput := { x with pendingDuty := none }

/-- The Field Input Unit without its fan inputs. -/
def Fiu.bare (x : Fiu) : Fiu := { x with fans := Vector.replicate 4 (.atReset false false false 0) }

/-- The own entry with, of its report, only the fields that an observation writes. -/
def Entry.observed (e : Entry) : Entry :=
  { e with
    report := { Report.unwritten with
      velocity := e.report.velocity, smoke := e.report.smoke, temperature := e.report.temperature
      anemo := e.report.anemo, smokeDead := e.report.smokeDead, tempDead := e.report.tempDead
      callCount := e.report.callCount } }

/-- The start queue's entries of other sections. -/
def peersOf (own : Nat) (l : List QueueEntry) : List QueueEntry := l.filter fun e => !isOwnEntry own e

/-- A fan that no change of its target moves. -/
def FanState.still : FanState → Bool
  | .stopping | .fault | .lockedOut => true
  | .off | .braking | .startWait | .starting | .running => false

/-- A fan that waits: OFF, BRAKING, START_WAIT. -/
def FanState.waiting : FanState → Bool
  | .off | .braking | .startWait => true
  | .starting | .running | .stopping | .fault | .lockedOut => false

/-- What the end of an event may make of a fan: a fan that is not STARTING or RUNNING does not become so. -/
structure Fan.Settles (x y : Fan) : Prop where
  measured : y.measured = x.measured
  still    : x.state.still = true → { y with target := .off } = { x with target := .off }
  waiting  : x.state.waiting = true →
    y.coastOverrun = x.coastOverrun ∧ (y.state.waiting = true ∨ y.state = .fault ∨ y.state = .lockedOut)
  driven   : x.state.driven = true →
    (y.state = x.state ∧ y.cmdDir = x.cmdDir ∧ y.startUntil = x.startUntil ∧ y.accSince = x.accSince)
      ∨ y.state = .stopping

/-! ## Keeps and Ends -/

/-- What no work inside an event writes: time and queue, node life, the running copy, the port, the store's bytes, the
field inputs but for pending duties, the view but for the own report, the lines but for newer frames in their slots,
detectors, the retired list, orders but for a vent run, run minutes, other sections' claims, the counts. -/
structure Keeps (s t : State) : Prop where
  now         : t.now = s.now
  pending     : t.pending = s.pending
  life        : t.life = s.life
  resets      : t.resets = s.resets
  loadCause   : t.loadCause = s.loadCause
  listenUntil : t.listenUntil = s.listenUntil
  running     : t.running = s.running
  spt         : t.spt = s.spt
  store       : t.cst.store = s.cst.store
  orders      : { t.ord with vent := none } = { s.ord with vent := none }
  derating    : t.tal.derating = s.tal.derating
  exposure    : t.fch.exposureFrom = s.fch.exposureFrom
  exposed     : t.fch.lastExposure = s.fch.lastExposure
  minutes     : ∀ f, (t.fan f).minutes = (s.fan f).minutes
  sqRejected  : t.sq.rejected = s.sq.rejected
  sqDropped   : t.sq.dropped = s.sq.dropped
  sqExpired   : t.sq.expired = s.sq.expired
  peers       : peersOf s.own t.sq.list = peersOf s.own s.sq.list
  smoke       : t.inc.smoke = s.inc.smoke
  call        : t.inc.call = s.inc.call
  heat        : t.inc.heat = s.inc.heat
  operator    : t.inc.operator = s.inc.operator
  retired     : t.inc.retired = s.inc.retired
  incRejected : t.inc.rejected = s.inc.rejected
  gateways    : t.svt.gateways = s.svt.gateways
  svtRejected : t.svt.rejected = s.svt.rejected
  peerEntry   : ∀ k, entryIdx k ≠ entryIdx s.own → t.entry k = s.entry k
  ownEntry    : (t.entry s.own).observed = (s.entry s.own).observed
  fiu         : t.fiu.bare = s.fiu.bare
  fanIn       : ∀ f, (t.fanIn f).bare = (s.fanIn f).bare
  lines       : ∀ l, (t.line l).bare = (s.line l).bare
  seq         : t.liu.seq = s.liu.seq
  frames      : s.liu.frames ≤ t.liu.frames
  slots       : ∀ l k, Slot.Offered s.liu.frames ((s.line l).slot k) ((t.line l).slot k)

/-- What the end of an event leaves unchanged: besides `Keeps`, the Incident Controller but for the declarer timer, the
orders, the free values drawn; and what it may make of the fans. -/
structure Ends (s t : State) : Prop extends Keeps s t where
  inc   : { t.inc with declarerDue := none } = { s.inc with declarerDue := none }
  ord   : t.ord = s.ord
  draws : t.draws = s.draws
  fans  : ∀ f, (s.fan f).Settles (t.fan f)
  duty  : ∀ f, (s.fan f).state.still = true → t.fanIn f = s.fanIn f

/-- What no received frame, no order and no timer of the lines, the incident, the start queue or the fans writes: time and
queue, node life, the running copy, the field inputs but for pending duties, the port, the store's bytes, the derating,
the exposure run. -/
structure Steady (s t : State) : Prop where
  now         : t.now = s.now
  pending     : t.pending = s.pending
  life        : t.life = s.life
  resets      : t.resets = s.resets
  loadCause   : t.loadCause = s.loadCause
  listenUntil : t.listenUntil = s.listenUntil
  running     : t.running = s.running
  fiu         : t.fiu.bare = s.fiu.bare
  fanIn       : ∀ f, (t.fanIn f).bare = (s.fanIn f).bare
  spt         : t.spt = s.spt
  store       : t.cst.store = s.cst.store
  derating    : t.tal.derating = s.tal.derating
  exposure    : t.fch.exposureFrom = s.fch.exposureFrom
  exposed     : t.fch.lastExposure = s.fch.lastExposure

/-- The Incident Controller but for the declarer timer, which every own INCIDENT frame restarts. -/
def Inc.bare (x : Inc) : Inc := { x with declarerDue := none }

/-! ## Commands -/

/-- The command completes, in a state with the property. -/
def Yields (c : Instr) (s : State) (p : State → Prop) : Prop := ∃ t, exec c s = .next t ∧ p t

/-- The ended body that a command tells of: its line, kind, header and payload. -/
def bodyOf : Instr → Option (LineId × FrameKind × RxHeader × List Byte)
  | .sectionReport l b => some (l, .sectionReport, frameHeader b, b.payload)
  | .incident l b => some (l, .incident, frameHeader b, b.payload)
  | .startClaim l b => some (l, .startClaim, frameHeader b, b.payload)
  | .declare l b => some (l, .order, orderHeader b, orderPayload b 1)
  | .forceDirection l b => some (l, .order, orderHeader b, orderPayload b 2)
  | .standDown l b => some (l, .order, orderHeader b, orderPayload b 3)
  | .inhibit l b => some (l, .order, orderHeader b, orderPayload b 4)
  | .release l b => some (l, .order, orderHeader b, orderPayload b 5)
  | .ventRun l b => some (l, .order, orderHeader b, orderPayload b 6)
  | .ventStop l b => some (l, .order, orderHeader b, orderPayload b 7)
  | .undefinedOrderKind l k b => some (l, .order, orderHeader b, orderPayload b k)
  | .discardedBody l body false => (splitBody body).map fun x => (l, x)
  | _ => none

/-- The command's body passes the reception checks (R30), is accepted against its origin's record (R31), and is of the
given kind, origin and payload, sequence number `q`, on line `l`. -/
def Delivered (s : State) (c : Instr) (l : LineId) (k : FrameKind) (o : Nat) (q : BitVec 8) (p : List Byte) : Prop :=
  s.active = true ∧ ∃ h, bodyOf c = some (l, k, h, p) ∧ h.origin = o ∧ h.seq = q
    ∧ bodyCheck s.own s.cfg.n k h p = none ∧ judge s.now (s.originRec o) q = .accepted

/-- The command delivers an order of gateway `g`, number `m`, that passes R152, to a node that has not executed it. -/
def Ordered (s : State) (c : Instr) (g : Nat) (m : BitVec 8) (o : Order) : Prop :=
  ∃ l q p k, Delivered s c l .order g q p ∧ orderKindOf (byteAt p 0) = some k ∧ p.getD 1 0 = m
    ∧ parseOrder s.cfg.n (p.drop 2) k = some o ∧ (s.gateway g).executed ≠ some m

/-- The order counts as executed (R153). -/
def Executed (s t : State) (g : Nat) (m : BitVec 8) : Prop :=
  (t.gateway g).executed = some m ∧ t.ord.lastOrder = some (g, m) ∧ t.ord.refused = s.ord.refused
    ∧ t.ord.repeated = s.ord.repeated

/-- The commands that a timer of the part brings about (log 9). -/
def timerDriven : Instr → Bool
  | .load | .entryToRun | .sampleTimerExpiry | .anemometerWatchExpiry | .periodChannelWatchExpiry _
  | .tachWindowTimerExpiry | .driveFaultDebounceExpiry _ | .pwmPeriodBoundary _ | .quietWatchExpiry _
  | .probeTimerExpiry _ | .reportTimerExpiry | .entryAgeExpiry _ | .ventRunExpiry | .alertClearExpiry
  | .declarerTimerExpiry | .guardTimerExpiry | .controlIntervalExpiry | .sourceTimerExpiry | .brakeLimitExpiry _
  | .staggerExpiry _ | .startLimitExpiry _ | .coastLimitExpiry _ | .faultHoldExpiry _ | .queueEntryExpiry _
  | .resendTimerExpiry | .runMinuteElapsed _ | .queueEntryProgrammed | .updateItemProgrammed => true
  | .powerOnReset _ | .resetN _ | .anemometerEdge _ | .periodChannelEdge _ | .callPointEdge _
  | .tachometerEdge _ _ _ | .driveFaultInputChange _ _ | .lineNoise _ | .attemptStart _ _ | .attemptClean _
  | .attemptCollision _ | .attemptEchoAbsent _ | .sectionReport _ _ | .incident _ _ | .startClaim _ _
  | .declare _ _ | .forceDirection _ _ | .standDown _ _ | .inhibit _ _ | .release _ _ | .ventRun _ _
  | .ventStop _ _ | .portCycleBegin _ _ _ | .modeWrite _ | .modeRead _ | .pointerWrite _ | .pointerRead
  | .dataWriteAutoincrement _ _ | .dataWriteNoIncrement _ _ | .dataReadAutoincrement | .dataReadNoIncrement
  | .discardedBody _ _ _ | .undefinedOrderKind _ _ _ => false

/-! ## What commands make of registers -/

/-- `x` is the stored value `v` limited to lo..hi, and `v` itself when it lies there (R169). -/
def Limited (v lo hi x : Nat) : Prop :=
  lo ≤ x ∧ x ≤ hi ∧ (lo ≤ v → v ≤ hi → x = v) ∧ (v < lo → x = lo) ∧ (hi < v → x = hi)

/-- Every block but the port and the store at its reset values (R18, R35, R52, R54, R70, R112, R114, R150, R161), in
LOAD. -/
structure BlocksReset (s : State) (pins : PinLevels) (t : State) : Prop where
  now         : t.now = s.now
  pending     : t.pending = s.pending
  life        : t.life = .load
  listenUntil : t.listenUntil = none
  running     : t.running = none
  signals     : t.signals = .clear
  fiu         : t.fiu = .atReset pins s.now
  liu         : t.liu = .atReset s.now s.liu.frames
  svt         : t.svt = .atReset
  inc         : t.inc = .atReset
  tal         : t.tal = .atReset
  fch         : t.fch = .atReset
  sq          : t.sq = .atReset
  ord         : t.ord = .atReset

/-- The store after a reset (R172): its bytes and the item in programming stay, the values that wait are lost. -/
structure StoreKept (s t : State) : Prop where
  store   : t.cst.store = s.cst.store
  engine  : t.cst.engine = s.cst.engine
  updates : t.cst.updates = []

/-- The port after a reset but for mode, pointers and phase (R172). -/
structure PortCleared (s t : State) : Prop where
  queue   : t.spt.queue = match s.cst.engine with
    | some ⟨.portEntry, _⟩ => s.spt.queue.take 1
    | _ => []
  refused : t.spt.refused = false
  snap    : t.spt.snap = none
  cycle   : t.spt.cycle = none

/-- Mode, pointer select, phase and pointers as they were. -/
def SamePointers (x y : Spt) : Prop :=
  y.dual = x.dual ∧ y.select = x.select ∧ y.phase = x.phase ∧ y.rp = x.rp ∧ y.wp = x.wp

/-- Single mode, read pointer selected, phase low, both pointers 0. -/
def ZeroPointers (y : Spt) : Prop := y.dual = false ∧ y.select = false ∧ y.phase = false ∧ y.rp = 0 ∧ y.wp = 0

/-- A fan stopped by a fault (R129): run time of a RUNNING fan kept and its minutes written. -/
def Fan.faulted (x : Fan) (c : FaultCause) (now : Nat) : Fan :=
  { x with
    state := .fault, lastFault := c, faultCount := min 3 (x.faultCount + 1), faults := satInc x.faults
    holdUntil := some (now + sec 30), brakeUntil := none, staggerUntil := none, startUntil := none, coastUntil := none
    speedLossFrom := none, directionFrom := none
    acc := if x.state = .running then x.accumulated now else x.acc
    accSince := if x.state = .running then none else x.accSince
    minutesWritten := if x.state = .running then x.minutes else x.minutesWritten }

/-- A faulted fan, locked out at its third fault (R129, R131, R133). -/
def Fan.afterFault (x : Fan) (c : FaultCause) (now : Nat) : Fan :=
  if 3 ≤ x.faultCount + 1 then
    { x.faulted c now with state := .lockedOut, lockout := .thirdFault, holdUntil := none }
  else x.faulted c now

/-- What the end of an event makes of fan `f`, brought to OFF from state `s` (R118, R119, R128, R137): outside RUN it stays
there; in RUN the target in force decides, and an active drive-fault contact lets no fan wait. -/
structure FromOff (s t : State) (f : FanId) : Prop where
  target  : (t.fan f).target = t.inForce f
  silent  : s.life ≠ .run → (t.fan f).state = .off
  off     : s.life = .run → (s.fanIn f).debounced = false → (t.fan f).target = .off → (t.fan f).state = .off
  braking : ∀ d v, s.life = .run → (s.fanIn f).debounced = false → (t.fan f).target = .run d v →
    speedIn d (s.fan f).measured < -10 → (t.fan f).state = .braking ∧ (t.fan f).brakeUntil = some (s.now + sec 60)
  waits   : ∀ d v, s.life = .run → (s.fanIn f).debounced = false → (t.fan f).target = .run d v →
    -10 ≤ speedIn d (s.fan f).measured → (t.fan f).state = .startWait
  faulty  : s.life = .run → (s.fanIn f).debounced = true →
    (t.fan f).state = .off ∧ (t.fan f).target = .off
      ∨ ((t.fan f).state = .fault ∨ (t.fan f).state = .lockedOut) ∧ (t.fan f).lastFault = .drive

/-- The holder of the start claim has started toward `d` (R122, R146, R147): its start counted, the claim and the own entry
GO, the frame saying so; it is stopped in the same event only where the target in force is taken away. -/
structure Started (s t : State) (f : FanId) (d : Direction) : Prop where
  starts  : (t.fan f).starts = satInc (s.fan f).starts
  outcome : ((t.fan f).state = .starting ∧ (t.fan f).cmdDir = d
      ∧ (t.fan f).startUntil = some (s.now + sec s.cfg.startLimit)
      ∧ (s.life = .run → ∃ w, t.inForce f = .run d w
        ∧ (t.fan f).cmdSpeed = min 100 (max s.cfg.sMin w)
        ∧ (t.fanIn f).pendingDuty = some (min 100 (max s.cfg.sMin w)))
      ∧ t.fch.claim = some f ∧ t.sq.own = .go ∧ t.sq.ownNumber = s.sq.ownNumber
      ∧ t.sq.resendDue = some (s.now + sec 5) ∧ (∀ e ∈ t.sq.list, e.station = s.own → e.go = true)
      ∧ (s.life = .run → ∀ l, (s.line l).state ≠ .down → (t.line l).claim.newest.map Copy.payload
          = some (encodeClaim ⟨s.cfg.group, f.val + 1, s.sq.ownNumber, .go⟩)))
    ∨ ((t.fan f).state = .stopping ∧ s.life = .run)
  follows : s.signals = .clear → (∀ g, s.installed g = true → (s.fanIn g).debounced = false) →
    (∀ w, s.inForce f = .run d w → (t.fan f).state = .starting ∧ t.inForce f = .run d w)
    ∧ (s.life = .run → (∀ w, s.inForce f ≠ .run d w) → (t.fan f).state = .stopping)

/-- The start queue's list `l` makes a grant due that was not due before (R141, R142, R146): the holder `f` starts. -/
def GrantJudged (s t : State) (l : List QueueEntry) : Prop :=
  s.grantDue = false →
    (({ s with sq := { s.sq with list := l } } : State).grantDue = true → ∀ f d v, s.fch.claim = some f →
      s.installed f = true → (s.fan f).state = .startWait → (s.fan f).target = .run d v →
      Started s t f d ∧ ∀ g, g ≠ f → (s.fan g).Settles (t.fan g))
    ∧ (({ s with sq := { s.sq with list := l } } : State).grantDue = false → ∀ g, (s.fan g).Settles (t.fan g))

/-- The run path (R118, R128): what a fan whose target is RUN toward `d` becomes. -/
def RunPath (s : State) (f : FanId) (d : Direction) (u : State) : Prop :=
  if (s.fanIn f).debounced then
    { u.fan f with target := .off } = { (s.fan f).afterFault .drive s.now with target := .off }
  else if speedIn d (s.fan f).measured < -10 then
    (u.fan f).state = .braking ∧ (u.fan f).staggerUntil = none
      ∧ (u.fan f).brakeUntil = some ((s.fan f).brakeUntil.getD (s.now + sec 60)) ∧ u.fch.claim ≠ some f
  else (u.fan f).state = .startWait ∧ (u.fan f).brakeUntil = none ∧ u.fch.claim = s.fch.claim

/-- The fan is in STOPPING (R126): coast limit 120 s, duty 0, the claim handed back, the direction as last commanded (R115);
from RUNNING both supervision runs discarded, the run time kept, the minutes written where they differ from those last written
(R136). The commanded speed stays too: the model's choice, log 52. -/
structure Stops (s : State) (f : FanId) (u : State) : Prop where
  state   : (u.fan f).state = .stopping
  coast   : (u.fan f).coastUntil = some (s.now + sec 120)
  overrun : (u.fan f).coastOverrun = false
  start   : (u.fan f).startUntil = none
  duty    : (u.fanIn f).pendingDuty = some 0
  claim   : u.fch.claim ≠ some f
  command : (u.fan f).cmdDir = (s.fan f).cmdDir ∧ (u.fan f).cmdSpeed = (s.fan f).cmdSpeed
  runs    : (s.fan f).state = .running → (u.fan f).speedLossFrom = none ∧ (u.fan f).directionFrom = none
  time    : (s.fan f).state = .running → (u.fan f).accSince = none ∧ (u.fan f).acc = (s.fan f).accumulated s.now
  minutes : (s.fan f).state = .running → (u.fan f).minutesWritten = (s.fan f).minutes
    ∧ ((s.fan f).minutes ≠ (s.fan f).minutesWritten → (.runMinutes f, (s.fan f).minutes.toNat) ∈ u.cst.updates)

/-- What a sample expiry that exposes no fan may make of fan `f`: its measured speed meets it as other consumers of the
observation left it (their order: log 3), and the ends of the events after that may change it again. -/
def Moved (s t : State) (f : FanId) (y : Fan) : Prop :=
  ∃ x : Fch, (s.fan f).Settles x.fans[f]
    ∧ ((({ s with fch := x } : State).speedUpdate f (t.fanIn f).measured).fan f).Settles y

/-- An exposure run that the sample expiry would end in an exposure (R132). -/
def State.ExposureRipe (s : State) : Prop := ∃ a, s.fch.exposureFrom = some a ∧ a + ms 10000 ≤ s.now

/-! ### The lead, the plan, the declarer's frames -/

/-- The lead is what its condition says (R85); a node that ceases to be lead stops its control interval timer (R87). -/
def LeadJudged (s t : State) : Prop :=
  t.inc.lead = t.leadHolds ∧ (s.inc.lead = true → t.inc.lead = false → t.inc.controlDue = none)

/-- The demand part keeps its T and its source (R87). -/
def DemandStands (s t : State) : Prop :=
  (t.inc.held.map fun h => h.demand.map fun d => (d.t, d.source))
    = s.inc.held.map fun h => h.demand.map fun d => (d.t, d.source)

/-- A view change for section `k` (R48); a change of tag-fresh alone is none (the model's choice: log 54). -/
def ViewChanges (s t : State) (k : Nat) : Prop :=
  (t.countable k, t.countableWithVelocity k) ≠ (s.countable k, s.countableWithVelocity k)

/-- The plan record and the plan targets are those of the record `h` (R107), formed on the fan channels `x`. -/
def State.Plans (t : State) (h : Held) (x : Fch) : Prop :=
  t.tal.plan = some (({ t with fch := x } : State).planOf h)
    ∧ t.fch.planTargets = (({ t with fch := x } : State).computePlan h).fch.planTargets

/-- The commands that bring the events of R108 about, but for the sample expiry and those of the fans. -/
def planEvent : Instr → Bool
  | .entryToRun | .callPointEdge _ | .sectionReport _ _ | .entryAgeExpiry _ | .incident _ _ | .declare _ _
  | .forceDirection _ _ | .inhibit _ _ | .release _ _ | .guardTimerExpiry | .controlIntervalExpiry
  | .sourceTimerExpiry => true
  | _ => false

/-- An event of R108: the record, its demand, the incident state, own inhibit, own availability or a section's countability
changes, the node enters RUN, or the lead's control interval expires. -/
def PlanAsked (c : Instr) (s t : State) : Prop :=
  let record (u : State) := u.inc.held.map fun h => (h.id, h.severity, h.triple, h.locus, h.demand.map Demand.t)
  record t ≠ record s ∨ t.inc.state ≠ s.inc.state ∨ t.life ≠ s.life ∨ t.ord.inhibit ≠ s.ord.inhibit
    ∨ t.tal.avail ≠ s.tal.avail ∨ (∃ k, isSection s.cfg.n k = true ∧ k ≠ s.own ∧ ViewChanges s t k)
    ∨ (c = .controlIntervalExpiry ∧ s.life = .run ∧ s.inc.lead = true ∧ isDue s.now s.inc.controlDue = true
      ∧ ∃ h, s.inc.held = some h ∧ h.demand ≠ none)

/-- The declarer's INCIDENT frame of the record `h`, as the event leaves it, is on each line not DOWN, and the declarer timer
starts at 2000 ms (R63, R64, R68, R79). -/
def DeclarerSends (s t : State) (h : Held) : Prop :=
  (∀ l, (s.line l).state ≠ .down → (t.line l).incident.newest.map Copy.payload
    = some (encodeIncident h true t.inc.lead t.inc.leadVc t.inc.state))
  ∧ t.inc.declarerDue = some (s.now + ms 2000)

/-- The stagger timer of the claim holder in START_WAIT (R121): stopped while a line is UP; else running, from now for
(s mod 8) · 3 s or as before. -/
def Staggers (s t : State) : Prop :=
  ∀ f, t.fch.claim = some f → (t.fan f).state = .startWait →
    (t.anyUp = true → (t.fan f).staggerUntil = none)
    ∧ (t.anyUp = false → ∃ e, (t.fan f).staggerUntil = some e
      ∧ (e = s.now + sec (s.own % 8 * 3) ∨ (s.fan f).staggerUntil = some e))

/-- `q` is x / d rounded to the nearest whole number, half away from zero. -/
def NearestAway (x : Int) (d : Nat) (q : Int) : Prop :=
  (0 ≤ x → 2 * d * q ≤ 2 * x + d ∧ 2 * x + d < 2 * d * (q + 1))
    ∧ (x < 0 → 2 * d * -q ≤ 2 * -x + d ∧ 2 * -x + d < 2 * d * (-q + 1))

/-- `m` is the median of the values: in rising order the middle one, of an even count the mean of the two middle ones
truncated toward zero; none of no value (spec/00 Arithmetic words). -/
def IsMedian (l : List Int) (m : Option Int) : Prop :=
  (l = [] → m = none)
    ∧ (l ≠ [] → ∀ r : List Int, List.Perm r l → r.Pairwise (· ≤ ·) →
      m = some (if l.length % 2 = 1 then r.getD (l.length / 2) 0
        else (r.getD (l.length / 2 - 1) 0 + r.getD (l.length / 2) 0).tdiv 2))

/-- `d` is the direction that the running rule gives a new record at `locus` (R67). -/
structure State.ByRule (s : State) (locus : Nat) (d : Direction) : Prop where
  fixedA  : s.cfg.rule = .fixedA → d = .towardA
  fixedB  : s.cfg.rule = .fixedB → d = .towardB
  portal  : s.cfg.rule = .nearPortal → d = if locus ≤ s.cfg.n / 2 then .towardA else .towardB
  draught : s.cfg.rule = .followDraught → ∃ m,
    IsMedian ((s.cfg.sections.filter fun k => (s.entry k).state == .fresh && (s.entry k).tagMatch).filterMap
      fun k => (s.entry k).report.velocity) m
    ∧ d = match m with
      | some v => if 50 ≤ v then .towardB else if v ≤ -50 then .towardA else s.cfg.dflt
      | none => s.cfg.dflt

/-- Of two sections upstream of the span, `a` is nearer the span than `b` (R84). -/
def Held.Nearer (h : Held) (a b : Nat) : Prop :=
  match h.triple.dir with
  | .towardB => b < a
  | .towardA => a < b

/-- A valid station of a tunnel of `n` sections: a section or a gateway (spec/00 Stations). -/
def Station (n k : Nat) : Prop := (1 ≤ k ∧ k ≤ n) ∨ (97 ≤ k ∧ k ≤ 100)

/-- A direction by its code (R173). -/
def DirCode (d : Direction) (c : Nat) : Prop := (d = .towardB ∧ c = 0) ∨ (d = .towardA ∧ c = 1)

/-- The parameter bytes `p`, payload bytes 2 to 8, of an order of kind `k` pass R152 and are those of `o` (R174). -/
def OrderReads (n : Nat) (p : List Byte) (k : OrderKind) (o : Order) : Prop :=
  let a := byteAt p 0
  let b := byteAt p 1
  let range : Prop := 1 ≤ a ∧ a ≤ b ∧ b ≤ n
  match k with
  | .declare => 1 ≤ a ∧ a ≤ n ∧ (b = 2 ∧ o = .declare a none ∨ ∃ d, DirCode d b ∧ o = .declare a (some d))
  | .forceDirection => Station n a ∧ ∃ d, DirCode d (byteAt p 2) ∧ o = .forceDirection ⟨a, p.getD 1 0⟩ d
  | .standDown => Station n a ∧ o = .standDown ⟨a, p.getD 1 0⟩
  | .inhibit => range ∧ o = .inhibit a b
  | .release => range ∧ o = .release a b
  | .ventStop => range ∧ o = .ventStop a b
  | .ventRun => range ∧ 20 ≤ byteAt p 3 ∧ byteAt p 3 ≤ 100 ∧ byteAt p 4 + 256 * byteAt p 5 ≠ 0
    ∧ ∃ d, DirCode d (byteAt p 2) ∧ o = .ventRun a b d (byteAt p 3) (byteAt p 4 + 256 * byteAt p 5)

/-- The payload `p` of a START_CLAIM passes R139 and is that of `m` (R173, R174). -/
def ClaimReads (p : List Byte) (m : ClaimMsg) : Prop :=
  m.group = byteAt p 0 ∧ m.fan = byteAt p 1 ∧ m.number = p.getD 2 0
    ∧ 1 ≤ m.group ∧ m.group ≤ 16 ∧ 1 ≤ m.fan ∧ m.fan ≤ 4
    ∧ byteAt p 3 = match m.state with
      | .wait => 0
      | .go => 1
      | .done => 2
      | .abandon => 3

/-- The payload `p` of an INCIDENT frame of origin `o` passes R71 and is that of `m` (R174). -/
structure IncidentReads (n o : Nat) (p : List Byte) (m : IncidentMsg) : Prop where
  id       : m.id = ⟨byteAt p 0, p.getD 1 0⟩
  station  : Station n m.id.station
  severity : m.severity = byteAt p 2 ∧ 1 ≤ m.severity ∧ m.severity ≤ 4 ∧ (m.severity = 4 ↔ 97 ≤ m.id.station ∧ m.id.station ≤ 100)
  triple   : DirCode m.triple.dir (byteAt p 3) ∧ m.triple.version = p.getD 4 0 ∧ m.triple.source = byteAt p 5
    ∧ Station n m.triple.source
  locus    : m.locus = byteAt p 6 ∧ 1 ≤ m.locus ∧ m.locus ≤ n
  declarer : m.declarer = (byteAt p 7).testBit 0 ∧ (m.declarer = true → o = m.id.station)
  lead     : m.lead = (byteAt p 7).testBit 1 ∧ (m.lead = true → ¬ (97 ≤ o ∧ o ≤ 100))
  demand   : (m.lead = true ↔ (byteAt p 7).testBit 2 = true)
    ∧ m.demand = if m.lead then some (byteAt p 8 + 256 * byteAt p 9 + 65536 * byteAt p 10, p.getD 11 0) else none

/-- `x` is the 16-bit signed value at byte `i` of `p`. -/
def SignedAt (p : List Byte) (i : Nat) (x : Int) : Prop :=
  let n := byteAt p i + 256 * byteAt p (i + 1)
  x = if n < 32768 then (n : Int) else (n : Int) - 65536

/-- An optional field: present when its mark is set, and then the value `v` says (R174). -/
def Optional {α : Type} (mark : Bool) (x : Option α) (v : α → Prop) : Prop :=
  if mark then ∃ a, x = some a ∧ v a else x = none

/-- A detector state by its code (R173). -/
def DetCode (d : DetState) (c : Nat) : Prop :=
  c = match d with
    | .normal => 0
    | .preAlarm => 1
    | .confirming => 2
    | .alarm => 3
    | .outOfService => 4

/-- The payload `p` of a SECTION_REPORT passes R39 and is that of `r` (R36, R173, R174). -/
structure ReportReads (p : List Byte) (r : Report) : Prop where
  life     : r.life = .run ∧ byteAt p 0 % 4 = 2
  state    : byteAt p 0 / 4 % 8 = match r.state with
    | .quiet => 0
    | .alert => 1
    | .declared => 2
    | .controlled => 3
    | .holding => 4
  velocity : Optional ((byteAt p 0).testBit 5) r.velocity fun v => SignedAt p 2 v ∧ -2000 ≤ v ∧ v ≤ 2000
  smoke    : Optional ((byteAt p 0).testBit 6) r.smoke fun v =>
    v = ((byteAt p 4 + 256 * byteAt p 5 : Nat) : Int) ∧ v ≤ 20000
  temp     : Optional ((byteAt p 0).testBit 7) r.temperature fun v => SignedAt p 6 v ∧ -40 ≤ v ∧ v ≤ 1200
  anemo    : byteAt p 1 % 4 = match r.anemo with
    | .ok => 0
    | .stuckLow => 1
    | .stuckHigh => 2
  dead     : r.smokeDead = (byteAt p 1).testBit 2 ∧ r.tempDead = (byteAt p 1).testBit 3
  calls    : r.callCount = byteAt p 8
  dets     : DetCode r.dets.smoke (byteAt p 9 % 16) ∧ DetCode r.dets.call (byteAt p 9 / 16)
    ∧ DetCode r.dets.heat (byteAt p 10 % 16) ∧ DetCode r.dets.operator (byteAt p 10 / 16)
    ∧ r.dets.call ≠ .confirming ∧ r.dets.heat ≠ .confirming ∧ r.dets.operator ≠ .confirming
  fans     : r.installed = byteAt p 11 % 16 ∧ r.healthy = byteAt p 11 / 16 ∧ r.running = byteAt p 12 % 16
    ∧ r.running ≤ r.healthy ∧ r.healthy ≤ r.installed ∧ r.installed ≤ 4
  flags    : r.lead = (byteAt p 12).testBit 4 ∧ r.inhibit = (byteAt p 12).testBit 5 ∧ r.vent = (byteAt p 12).testBit 6
    ∧ r.clamped = (byteAt p 12).testBit 7
  avail    : r.availB = byteAt p 13 + 256 * byteAt p 14 ∧ r.availA = byteAt p 15 + 256 * byteAt p 16
    ∧ r.availB ≤ 1284 ∧ r.availA ≤ 1284
  thrust   : SignedAt p 17 r.thrust ∧ -1284 ≤ r.thrust ∧ r.thrust ≤ 1284
  group    : r.group = byteAt p 19 ∧ 1 ≤ r.group ∧ r.group ≤ 16
  summary  : Optional ((byteAt p 1).testBit 4) r.summary fun x => x.id = ⟨byteAt p 20, p.getD 21 0⟩
    ∧ x.severity = byteAt p 22 % 8 ∧ 1 ≤ x.severity ∧ x.severity ≤ 4
    ∧ x.dir = (if (byteAt p 22).testBit 7 then .towardA else .towardB) ∧ x.version = p.getD 23 0
  order    : Optional ((byteAt p 1).testBit 5) r.lastOrder fun x => x = (byteAt p 24, p.getD 25 0)
    ∧ 97 ≤ x.1 ∧ x.1 ≤ 100
  tag      : r.tag = byteAt p 26 + 256 * byteAt p 27

/-- The fields of a report lie in the ranges of R36, and stand in the relations of R39. -/
structure Report.InRange (r : Report) : Prop where
  life     : r.life = .run
  velocity : ∀ v, r.velocity = some v → -2000 ≤ v ∧ v ≤ 2000
  smoke    : ∀ v, r.smoke = some v → 0 ≤ v ∧ v ≤ 20000
  temp     : ∀ v, r.temperature = some v → -40 ≤ v ∧ v ≤ 1200
  calls    : r.callCount ≤ 255
  dets     : r.dets.call ≠ .confirming ∧ r.dets.heat ≠ .confirming ∧ r.dets.operator ≠ .confirming
  fans     : r.running ≤ r.healthy ∧ r.healthy ≤ r.installed ∧ r.installed ≤ 4
  avail    : r.availB ≤ 1284 ∧ r.availA ≤ 1284 ∧ -1284 ≤ r.thrust ∧ r.thrust ≤ 1284
  group    : 1 ≤ r.group ∧ r.group ≤ 16
  summary  : ∀ x, r.summary = some x → x.id.station ≤ 100 ∧ 1 ≤ x.severity ∧ x.severity ≤ 4
  order    : ∀ x, r.lastOrder = some x → 97 ≤ x.1 ∧ x.1 ≤ 100
  tag      : r.tag < 65536

/-- Bytes `i` to `j` of `p` are 0. -/
def ZeroAt (p : List Byte) (i j : Nat) : Prop := ∀ a, i ≤ a → a ≤ j → byteAt p a = 0

/-- The payload `p` sent of a report `r` (R174): read back as `r`, and 0 where a field is absent or there is none. -/
structure ReportSent (p : List Byte) (r : Report) : Prop where
  length  : p.length = 30
  reads   : ReportReads p r
  absent  : (r.velocity = none → ZeroAt p 2 3) ∧ (r.smoke = none → ZeroAt p 4 5) ∧ (r.temperature = none → ZeroAt p 6 7)
    ∧ (r.summary = none → ZeroAt p 20 23) ∧ (r.lastOrder = none → ZeroAt p 24 25)
  noField : byteAt p 1 < 64 ∧ byteAt p 22 / 8 % 16 = 0 ∧ ZeroAt p 28 29

/-- The payload `p` sent of a held record `h` by station `o` with its roles, control velocity and incident state (R68, R88,
R174): read back, the control velocity at bytes 12 and 13 under bit 3 of byte 7, the state at byte 14; 0 where a field is
absent or there is none. -/
structure IncidentSent (n o : Nat) (p : List Byte) (h : Held) (declarer lead : Bool) (vc : Option Int) (st : IncState) :
    Prop where
  length  : p.length = 18
  reads   : IncidentReads n o p
    { id := h.id, severity := h.severity, triple := h.triple, locus := h.locus, declarer, lead
      demand := if lead then h.demand.map fun d => (d.t, (d.source.map DemandSource.seq).getD 0) else none }
  control : Optional ((byteAt p 7).testBit 3) (if lead then vc else none) fun v => SignedAt p 12 v
  state   : byteAt p 14 = match st with
    | .quiet => 0
    | .alert => 1
    | .declared => 2
    | .controlled => 3
    | .holding => 4
  absent  : (lead = false → ZeroAt p 8 13) ∧ (vc = none → ZeroAt p 12 13)
  noField : byteAt p 7 < 16 ∧ ZeroAt p 15 17

/-- The own entry shows what the blocks hold: the fields that an observation does not write (R44, R46). The config clamped
mark is set by any clamp flag, replaced enumerated settings included, where R44 names numeric ones (DEDUCED: log 35). -/
structure State.OwnEntryTold (s : State) (r : Report) : Prop where
  node     : r.life = s.life ∧ r.state = s.inc.state
  dets     : r.dets = ⟨s.inc.smoke.state, s.inc.call.state, s.inc.heat.state, s.inc.operator.state⟩
  healthy  : r.healthy = (allFans.filter fun f =>
    s.installed f && !((s.fan f).state == .fault || (s.fan f).state == .lockedOut)).length
  running  : r.running = (allFans.filter fun f =>
    s.installed f && ((s.fan f).state == .starting || (s.fan f).state == .running)).length
  thrust   : r.thrust = (allFans.map fun f =>
    if s.installed f = true ∧ (s.fan f).state = .running then
      match (s.fan f).cmdDir with
      | .towardB => ((s.derated f .towardB * (s.fan f).cmdSpeed ^ 2 / 10000 : Nat) : Int)
      | .towardA => -((s.derated f .towardA * (s.fan f).cmdSpeed ^ 2 / 10000 : Nat) : Int)
    else 0).sum
  avail    : (r.availB, r.availA) = s.tal.avail.getD (0, 0)
  incident : r.lead = s.inc.lead ∧ r.summary = s.inc.held.map fun h => ⟨h.id, h.severity, h.triple.dir, h.triple.version⟩
  orders   : r.inhibit = s.ord.inhibit ∧ r.vent = s.ord.vent.isSome ∧ r.lastOrder = s.ord.lastOrder
  settings : r.installed = s.cfg.installed ∧ r.group = s.cfg.group
    ∧ ∀ x, s.running = some x → r.tag = x.tag ∧ (r.clamped = true ↔ x.clamps ≠ [])

/-- The changes that hand over a report at once (R33, R45). -/
def ReportsAtOnce (a b : Report) : Prop :=
  a.life ≠ b.life ∨ a.state ≠ b.state ∨ a.summary ≠ b.summary ∨ a.running ≠ b.running ∨ a.inhibit ≠ b.inhibit

/-! ## Invariants -/

/-- The retired list (R82): at most 8 identities, none twice, never the identity of the held record. -/
def Inc.retiredOk (x : Inc) : Prop :=
  x.retired.length ≤ Config.retiredLimit ∧ x.retired.Nodup ∧ ∀ h ∈ x.held, h.id ∉ x.retired

/-- The start queue (R140): at most 24 entries, at most one per section. -/
def Sq.listOk (x : Sq) : Prop :=
  x.list.length ≤ Config.queueLimit ∧ (x.list.map QueueEntry.station).Nodup

/-- The port (R164, R165): at most eight entries wait, and in single mode both pointers are equal. -/
def Spt.portOk (x : Spt) : Prop :=
  x.queue.length ≤ Config.writeQueueLimit ∧ (x.dual = false → x.rp = x.wp)

/-- The update list (R167): each item once. -/
def Cst.updatesOk (x : Cst) : Prop := (x.updates.map Prod.fst).Nodup

/-- The velocity window and the temperature history (R5, R10) keep their lengths. -/
def Fiu.windowsOk (x : Fiu) : Prop := x.window.length ≤ 8 ∧ x.history.length ≤ 16

/-- The tachometer counts and the measured speeds stay in their ranges (R12, R13), the duties in 0..100 (R15). -/
def Fiu.fansOk (x : Fiu) : Prop :=
  ∀ f : FanId, (-32767 ≤ x.fans[f].count ∧ x.fans[f].count ≤ 32767)
    ∧ (-200 ≤ x.fans[f].measured ∧ x.fans[f].measured ≤ 200) ∧ x.fans[f].duty ≤ 100
    ∧ ∀ d ∈ x.fans[f].pendingDuty, d ≤ 100

/-- The start claim (R120, R144, R148): the Start Queue's own claim is that of the fan that holds it; the holder is in
START_WAIT or STARTING; only the holder is in STARTING; in LOAD there is none. -/
structure State.ClaimOk (s : State) : Prop where
  fan      : s.sq.ownFan = s.fch.claim
  opened   : s.sq.own = .none ↔ s.fch.claim = none
  holder   : ∀ f, s.fch.claim = some f → (s.fan f).state = .startWait ∨ (s.fan f).state = .starting
  starting : ∀ f, (s.fan f).state = .starting → s.fch.claim = some f
  load     : s.life = .load → s.fch.claim = none

/-- The fans (R116, R122, R128, R137): outside RUN none has left OFF but by a lockout; a fan in START_WAIT does not turn
against its target's direction faster than 10 %; in RUN no installed fan whose drive-fault contact is active waits or is
driven. In RUN every channel has the target in force; plan targets are other than OFF only for an incident held outside its
span without own inhibit, and no vent run goes on beside an incident; so no fan is in STARTING or RUNNING with the target OFF
in force, under own inhibit, inside the span, or without an incident or a vent run. -/
structure State.FansSafe (s : State) : Prop where
  latched : s.active = true → s.running ≠ none
  before : s.life ≠ .run → ∀ f, (s.fan f).state = .off ∨ (s.fan f).state = .lockedOut
  turns  : ∀ f d v, (s.fan f).state = .startWait → (s.fan f).target = .run d v → -10 ≤ speedIn d (s.fan f).measured
  faulty : s.life = .run → ∀ f, s.installed f = true → (s.fanIn f).debounced = true →
    (s.fan f).state = .off ∨ (s.fan f).state = .stopping ∨ (s.fan f).state = .fault ∨ (s.fan f).state = .lockedOut
  answers : s.life = .run → ∀ f, s.installed f = true → (s.fan f).target = s.inForce f
  aimed   : ∀ f, s.installed f = true → (s.fan f).state.driven = true → (s.fan f).target ≠ .off
  planned : ∀ f : FanId, s.fch.planTargets[f] ≠ .off → s.active = true ∧ s.ord.inhibit = false
    ∧ ∃ h, s.inc.held = some h ∧ h.inSpan s.cfg s.own = false
  vented  : s.ord.vent ≠ none → s.inc.held = none
  stopped : s.life = .run → ∀ f, s.installed f = true → ((s.fan f).state = .starting ∨ (s.fan f).state = .running) →
    s.inForce f ≠ .off ∧ s.ord.inhibit = false
    ∧ (s.ord.vent ≠ none ∨ ∃ h, s.inc.held = some h ∧ h.inSpan s.cfg s.own = false)

/-- The running copy (R169) places the node in its tunnel. -/
def State.Placed (s : State) : Prop := 1 ≤ s.own ∧ s.own ≤ s.cfg.n ∧ 4 ≤ s.cfg.n ∧ s.cfg.n ≤ 96

/-- A line that is not DOWN has fewer than 3 drops in a row (R26). -/
def Line.dropsOk (x : Line) : Prop := x.state ≠ .down → x.drops < 3

/-- The lists, ranges and counts of the blocks (R5, R10, R12, R15, R26, R82, R140, R169). -/
structure State.BoundsOk (s : State) : Prop where
  retired : s.inc.retiredOk
  queue   : s.sq.listOk
  windows : s.fiu.windowsOk
  fans    : s.fiu.fansOk
  lines   : ∀ l, (s.line l).dropsOk
  placed  : s.active = true → s.Placed

/-- The port and the store (R164, R165, R167, log 6). -/
structure State.StoreOk (s : State) : Prop where
  store   : Memory.wf s.cst.store
  updates : s.cst.updatesOk
  port    : s.spt.portOk

/-- An internal update waits, or is in programming (R167). -/
def Asked (t : State) (i : Item) (v : Nat) : Prop :=
  (i, v) ∈ t.cst.updates ∨ ∃ w, t.cst.engine = some ⟨.item i v, w⟩

/-- A declaration number is drawn (R62): the counter advanced and its store update asked for, the number its low 8 bits; a
full counter stays, asks nothing (log 20), and the number follows the last one drawn. A retired number is passed over. -/
def NumberDrawn (s t : State) (q : BitVec 8) : Prop :=
  let c := s.inc.declCounter.toNat
  let d := t.inc.declCounter.toNat
  t.inc.lastDrawn = q
  ∧ (c = 16777215 → d = c ∧ (∀ v, Asked t .declCounter v → Asked s .declCounter v)
    ∧ ((⟨s.own, s.inc.lastDrawn + 1⟩ : Identity) ∉ s.inc.retired → q = s.inc.lastDrawn + 1))
  ∧ (c ≠ 16777215 → c < d ∧ d ≤ c + 9 ∧ Asked t .declCounter d ∧ (d ≠ 16777215 → q = BitVec.ofNat 8 d)
    ∧ ((⟨s.own, BitVec.ofNat 8 (c + 1)⟩ : Identity) ∉ s.inc.retired → d = c + 1 ∧ q = BitVec.ofNat 8 (c + 1)))

/-! ## The record space (R175, R176) -/

/-- The bytes read at consecutive addresses. -/
def State.Shows (s : State) (a : Nat) (l : List Byte) : Prop := ∀ i, i < l.length → s.liveByte (a + i) = l.getD i 0

/-- Addresses that no region of R175 holds. -/
def noContent (a : Nat) : Prop :=
  (0x400 ≤ a ∧ a < 0x1000) ∨ (0x10C0 ≤ a ∧ a < 0x1100) ∨ (0x11C2 ≤ a ∧ a < 0x2000) ∨ (0x2F00 ≤ a ∧ a < 0x3000)
    ∨ (0x3050 ≤ a ∧ a < 0x3100) ∨ (0x32D0 ≤ a ∧ a < 0x3300) ∨ 0x3400 ≤ a

/-- Store, running copy with its fill (R178), clamp flags and tag (the check codes of the copy: log 23). -/
structure State.SettingsLaidOut (s : State) : Prop where
  store   : ∀ a, a < 0x400 → s.liveByte a = s.cst.store.read a
  blank   : s.running = none → ∀ a, 0x1000 ≤ a → a < 0x2000 → s.liveByte a = 0
  tunnel  : ∀ r, s.running = some r → let c := r.settings
    s.Shows 0x1000 ([byteOf c.n] ++ le16 c.vt ++ le16 c.kp ++ le16 c.ki
      ++ [byteOf c.initialDemand, byteOf c.u, byteOf c.d, byteOf c.rule.code, byteOf c.dflt.code, byteOf c.startsLimit]
      ++ le16 c.exposure ++ le16 c.smokePre ++ le16 c.smokeAlarm ++ [byteOf c.smokeConfirm]
      ++ le16 c.heatPre ++ le16 c.heatAlarm ++ [byteOf c.riseAlarm] ++ le16 c.guard)
    ∧ s.Shows 0x101B (zeros 35) ∧ s.Shows 0x103E (le16 r.tunnelCheck)
  node    : ∀ r, s.running = some r → let c := r.settings
    (∀ f : FanId, s.Shows (0x1040 + 6 * f.val) (le16 c.fans[f].thrust ++ le16 c.fans[f].speed
      ++ [byteOf c.fans[f].pulses, byteOf c.fans[f].reverse]))
    ∧ s.Shows 0x1058 [byteOf c.startLimit, byteOf c.sMin, byteOf c.own, byteOf c.group, byteOf c.installed]
    ∧ s.Shows 0x105D (zeros 3) ∧ s.Shows 0x1078 (zeros 70)
    ∧ s.Shows 0x1060 (leInt32 c.calAnemo.slope ++ leInt32 c.calAnemo.offset ++ leInt32 c.calSmoke.slope
      ++ leInt32 c.calSmoke.offset ++ leInt32 c.calTemp.slope ++ leInt32 c.calTemp.offset)
    ∧ s.Shows 0x10BE (le16 r.nodeCheck)
  clamps  : ∀ r a, s.running = some r → a < 0xC0 → s.liveByte (0x1100 + a) = if a ∈ r.clamps then 1 else 0
  tag     : ∀ r, s.running = some r → s.Shows 0x11C0 (le16 r.tag)
  gaps    : ∀ a, noContent a → s.liveByte a = 0

/-- Section View entries and arrival fields; the bytes a report left are 28. Bits without field: log 47; no section in
CONFIG_INVALID: log 22. -/
structure State.ViewLaidOut (s : State) : Prop where
  entry   : ∀ k, isSection s.cfg.n k = true → k ≤ 96 → let e := s.entry k
    s.Shows (0x2000 + 32 * (k - 1))
      ([byteOf (e.state.code + bitNat e.tagMatch 2 + 8 * e.pattern s.now)]
        ++ le16 (if e.state = .empty then 65535 else if k = s.own then 0 else elapsed16 s.now e.writtenAt))
    ∧ (e.state = .empty → s.Shows (0x2003 + 32 * (k - 1)) (zeros 29))
    ∧ (e.state ≠ .empty → k = s.own → s.Shows (0x2003 + 32 * (k - 1)) ((encodeReport e.report).take 28 ++ [0]))
    ∧ (e.state ≠ .empty → k ≠ s.own → e.payload.length = 28 → s.Shows (0x2003 + 32 * (k - 1)) (e.payload ++ [0]))
  arrival : ∀ k, isSection s.cfg.n k = true → k ≤ 96 → let e := s.entry k
    s.Shows (0x2C00 + 8 * (k - 1))
      (le16 (sinceFull s.now (e.origin.map OriginRec.time)) ++ le16 (sinceFull s.now e.heard1)
        ++ le16 (sinceFull s.now e.heard2)
        ++ [byteOf (bitNat e.origin.isSome 0 + bitNat e.heard1.isSome 1 + bitNat e.heard2.isSome 2),
          (e.origin.map OriginRec.seq).getD 0])
  beyond  : ∀ k, s.cfg.n < k → k ≤ 96 →
    s.Shows (0x2000 + 32 * (k - 1)) (zeros 32) ∧ s.Shows (0x2C00 + 8 * (k - 1)) (zeros 8)

/-- The held incident record, the retired list and the incident region. Bits without field: log 47. -/
structure State.IncidentLaidOut (s : State) : Prop where
  absent  : s.inc.held = none → s.Shows 0x3000 (zeros 32)
  held    : ∀ h, s.inc.held = some h →
    s.Shows 0x3000
      [byteOf (1 + bitNat h.demand.isSome 1 + bitNat (h.demand.any fun d => d.ePrev.isSome) 2
          + bitNat h.pending.isSome 3),
        byteOf h.id.station, h.id.number, byteOf h.severity, byteOf h.triple.dir.code, h.triple.version,
        byteOf h.triple.source, byteOf h.locus, byteOf (h.lo s.cfg), byteOf (h.hi s.cfg)]
    ∧ s.Shows 0x3018 (zeros 8)
  demand  : ∀ h, s.inc.held = some h →
    (h.demand = none → s.Shows 0x300A (zeros 9))
    ∧ ∀ d, h.demand = some d → s.Shows 0x300A (le24 d.t) ∧ s.Shows 0x3011 (leInt16 (d.ePrev.getD 0))
      ∧ (d.source = none → s.Shows 0x300D (zeros 4))
      ∧ ∀ x, d.source = some x → s.Shows 0x300D ([byteOf x.station] ++ le16 (elapsed16 s.now x.time) ++ [x.seq])
  pending : ∀ h, s.inc.held = some h →
    (h.pending = none → s.Shows 0x3013 (zeros 5))
    ∧ ∀ p, h.pending = some p → s.Shows 0x3013
      ([byteOf p.triple.dir.code, p.triple.version, byteOf p.triple.source] ++ le16 (elapsed16 s.now p.time))
  retired : ∀ i, i < 8 → s.Shows (0x3020 + 2 * i) (match s.inc.retired[i]? with
    | some x => [byteOf x.station, x.number]
    | none => [0, 0])
  region  : let x := s.inc
    s.Shows 0x3030
      ([byteOf x.state.code, byteOf (x.smoke.state.code + 16 * x.call.state.code),
          byteOf (x.heat.state.code + 16 * x.operator.state.code),
          byteOf (bitNat x.smoke.rearm 0 + bitNat x.heat.rearm 1 + bitNat (x.smoke.state == .confirming) 2
            + bitNat x.heat.since.isSome 3 + bitNat x.lead 4)]
        ++ le16 (remainingMs s.now x.alertClear) ++ le24 (remainingMs s.now x.guardUntil)
        ++ le16 (remainingMs s.now x.controlDue) ++ le16 (remainingMs s.now x.declarerDue)
        ++ le16 (sinceOrZero s.now x.smoke.since) ++ le16 (sinceOrZero s.now x.heat.since)
        ++ le16 x.rejected.toNat ++ le16 x.refused.toNat ++ [byteOf x.retired.length] ++ zeros 10)

/-- A fan record; its rpm when 16 bits hold it (log 36). Bits without field: log 47; past its last field: log 48; the commanded
direction and speed outside STARTING and RUNNING: log 52. -/
structure State.FanLaidOut (s : State) (f : FanId) : Prop where
  absent  : s.installed f = false → s.Shows (0x3100 + 64 * f.val) (zeros 64)
  motion  : s.installed f = true → s.Shows (0x3100 + 64 * f.val)
    ([byteOf (s.fan f).state.code]
      ++ (match (s.fan f).target with
        | .off => [0, 0, 0]
        | .run d v => [1, byteOf d.code, byteOf v])
      ++ [byteOf (s.fan f).cmdDir.code, byteOf (s.fan f).cmdSpeed] ++ leInt16 (s.fanIn f).measured)
  rpm     : s.installed f = true → -32768 ≤ (s.fanIn f).rpm → (s.fanIn f).rpm ≤ 32767 →
    s.Shows (0x3108 + 64 * f.val) (leInt16 (s.fanIn f).rpm)
  faults  : s.installed f = true → s.Shows (0x310A + 64 * f.val)
    [byteOf (bitNat (s.fanIn f).debounced 0 + bitNat (s.fch.claim == some f) 1 + bitNat (s.fan f).coastOverrun 2
        + bitNat (s.cst.store.u8 (0xC1 + f.val) != 0) 3),
      byteOf (s.fan f).faultCount, byteOf (s.fan f).lastFault.code, byteOf (s.fan f).lockout.code]
  timers  : s.installed f = true → s.Shows (0x310E + 64 * f.val)
    (le24 (remainingMs s.now (s.fan f).brakeUntil) ++ le24 (remainingMs s.now (s.fan f).staggerUntil)
      ++ le24 (remainingMs s.now (s.fan f).startUntil) ++ le24 (remainingMs s.now (s.fan f).coastUntil)
      ++ le24 (remainingMs s.now (s.fan f).holdUntil) ++ le16 (sinceOrZero s.now (s.fan f).speedLossFrom)
      ++ le16 (sinceOrZero s.now (s.fan f).directionFrom))
  counts  : s.installed f = true → s.Shows (0x3121 + 64 * f.val)
    (le24 ((s.fan f).accumulated s.now / 1000) ++ le24 (s.fan f).minutes.toNat
      ++ [byteOf (s.fanIn f).duty, byteOf ((s.fanIn f).pendingDuty.getD 0)]
      ++ s.cst.store.bytes (0xD0 + 9 * f.val) 9 ++ zeros 14)

/-- Start queue, own claim and queue status, lines, gateways; the order of a line's slots and counts: log 27; a set
own-entry mark and a set probe outcome read 01h: log 45; the byte and bits without field: log 47; past the last field
of a line's or gateway's record: log 48. -/
structure State.LinesLaidOut (s : State) : Prop where
  queue   : ∀ i, i < 24 → s.Shows (0x3200 + 8 * i) (match s.sq.list[i]? with
    | some e => [byteOf e.station, byteOf e.fan, e.number, byteOf (bitNat e.go 0)] ++ le16 (elapsed16 s.now e.heardAt)
        ++ [byteOf (bitNat (e.station == s.own) 0), 0]
    | none => zeros 8)
  claim   : s.Shows 0x32C0
    ([byteOf s.sq.own.code, byteOf ((s.sq.ownFan.map fun f => f.val + 1).getD 0), s.sq.ownNumber,
        byteOf (s.position.getD 255), byteOf (bitNat s.position.isSome 0 + bitNat s.sq.overflow 1)]
      ++ le16 (remainingMs s.now s.sq.resendDue) ++ [byteOf s.sq.list.length] ++ le16 s.sq.rejected.toNat
      ++ le16 s.sq.dropped.toNat ++ le16 s.sq.expired.toNat ++ [0, 0])
  line    : ∀ l, let x := s.line l
    s.Shows (match l with
      | .l1 => 0x3300
      | .l2 => 0x3320)
      ([byteOf x.state.code, byteOf x.drops, byteOf ((x.report.cur.map Copy.attempts).getD 0),
          byteOf ((x.incident.cur.map Copy.attempts).getD 0), byteOf ((x.claim.cur.map Copy.attempts).getD 0),
          byteOf (bitNat x.probeOk 0), s.liu.seq]
        ++ le16 x.accepted.toNat ++ le16 x.length.toNat ++ le16 x.crc.toNat ++ le16 x.origin.toNat
        ++ le16 x.noise.toNat ++ le16 x.collisions.toNat ++ le16 x.dropped.toNat ++ le16 x.downs.toNat ++ zeros 9)
  gateway : ∀ g, 97 ≤ g → g ≤ 100 → let x := s.gateway g
    s.Shows (0x3340 + 8 * (g - 97))
      ([(x.origin.map OriginRec.seq).getD 0, byteOf (bitNat x.origin.isSome 0 + bitNat x.executed.isSome 1)]
        ++ le16 (sinceFull s.now (x.origin.map OriginRec.time)) ++ [x.executed.getD 0, 0, 0, 0])

/-- Node status; the figures an absent plan or a plan without a share shows: log 24; the place of the call-point
counters: log 37; the bytes and bits without field: log 47. -/
structure State.StatusLaidOut (s : State) : Prop where
  life    : s.Shows 0x3360 [byteOf s.life.code, byteOf s.loadCause.code]
  view    : let n (p : Nat → Bool) : Byte := byteOf (s.cfg.sections.filter p).length
    s.Shows 0x3362
      ([n fun k => (s.entry k).state == .empty, n fun k => (s.entry k).state == .fresh,
          n fun k => (s.entry k).state == .stale, n fun k => (s.entry k).state == .lost,
          n fun k => (s.entry k).state == .fresh && !(s.entry k).tagMatch,
          n fun k => (s.entry k).pattern s.now == 1 || (s.entry k).pattern s.now == 2,
          n s.countable, n s.countableWithVelocity]
        ++ le16 s.svt.rejected.toNat)
  orders  : s.Shows 0x336C
    ([byteOf (bitNat s.ord.inhibit 0 + bitNat s.ord.vent.isSome 1)]
      ++ (match s.ord.vent with
        | some v => [byteOf v.gateway, v.number, byteOf v.first, byteOf v.last, byteOf v.dir.code, byteOf v.speed]
            ++ le16 ((v.ends - s.now + 999999) / 1000000)
        | none => zeros 8)
      ++ zeros 3 ++ le16 s.ord.refused.toNat ++ le16 s.ord.repeated.toNat
      ++ le16 (sinceFull s.now s.fch.exposureFrom) ++ le16 (sinceFull s.now s.fch.lastExposure))
  inputs  : let smoke := s.fiu.obs.bind Observation.smoke
    let temp := s.fiu.obs.bind Observation.temperature
    s.Shows 0x3380
      (le16 s.fiu.anemo.raw ++ leInt16 (s.fiu.anemoSample.getD 0) ++ le32 s.fiu.smoke.raw ++ leInt16 (smoke.getD 0)
        ++ le32 s.fiu.temp.raw ++ leInt16 (temp.getD 0)
        ++ [byteOf (s.fiu.anemo.state.code + bitNat s.fiu.smoke.dead 2 + bitNat s.fiu.temp.dead 3
            + bitNat s.fiu.anemoSample.isSome 4 + bitNat smoke.isSome 5 + bitNat temp.isSome 6)]
        ++ zeros 15)
  noPlan  : s.tal.plan = none → s.Shows 0x33A0 (zeros 25)
  plan    : ∀ p, s.tal.plan = some p → s.Shows 0x33A0
    ([byteOf (1 + bitNat p.basisHeld 1), byteOf p.dir.code] ++ le24 p.demand ++ le24 p.tcap ++ [byteOf p.eligible]
      ++ le24 p.before ++ le16 p.share ++ [byteOf p.h] ++ le16 (p.f1.getD 0)
      ++ [byteOf (p.fMin.getD 0), byteOf (p.threshold.getD 0)] ++ le16 (p.f.getD 0)
      ++ [byteOf p.k, byteOf (p.speed.getD 0)] ++ le16 p.derating)
  targets : ∀ f : FanId, s.Shows (0x33B9 + 3 * f.val) (match s.fch.planTargets[f] with
    | .off => [0, 0, 0]
    | .run d v => [1, byteOf d.code, byteOf v])
  calls   : s.Shows 0x33C5 (if s.life = .configInvalid
    then le16 s.fiu.call1.count.toNat ++ le16 s.fiu.call2.count.toNat else zeros 4)
  full    : let stop (a i : Nat) : Nat := bitNat (s.cst.store.u24 a == 16777215) i
    s.Shows 0x33C9 (zeros 7
      ++ le16 (stop 0xC8 0 + (allFans.map fun f => stop (0xD0 + 9 * f.val) (1 + f.val)
          + stop (0xD3 + 9 * f.val) (5 + f.val) + stop (0xD6 + 9 * f.val) (9 + f.val)).sum)
      ++ zeros 46)

/-- Every region reads as R175 to R177 lay it out. -/
structure State.RecordsLaidOut (s : State) : Prop where
  settings : s.SettingsLaidOut
  view     : s.ViewLaidOut
  incident : s.IncidentLaidOut
  fans     : ∀ f, s.FanLaidOut f
  lines    : s.LinesLaidOut
  status   : s.StatusLaidOut

end Sys2Proof.Machine
end

