-- ==== Sys2Proof/Certificates/Slice0/Obligations.lean ====
section
/-! DEFINITION. The statements for the provers. -/

open Sys2Proof Sys2Proof.Machine

/-! ## The machine -/

/-- A step takes the command at the front of the queue and runs it with the queue's rest. -/
def Obligations.StepRunsFrontCommand : Prop :=
  ∀ (c : Instr) (s : State) (rest : List Instr), s.pending = c :: rest →
    step s = exec c { s with pending := rest }

/-- On an empty queue the part's own time runs: 1 µs passes, or what falls due is put into the queue in some order (the
model's choice: log 1, log 2). -/
def Obligations.EmptyQueueRunsTime : Prop :=
  ∀ s : State, s.pending = [] →
    (s.due = [] → step s = .next { s with now := s.now + 1 })
    ∧ (s.due ≠ [] → ∃ q, List.Perm q s.due ∧ step s = .next { s with pending := q, draws := s.draws + 1 })

/-- Every command completes, at its instant, and leaves the queue as it is; one that a timer of the part brings about
has no effect while it is not due (the model's choice: log 9). -/
def Obligations.EveryCommandCompletes : Prop :=
  (∀ (c : Instr) (s : State), Yields c s fun t => t.pending = s.pending ∧ t.now = s.now)
  ∧ ∀ (c : Instr) (s : State), timerDriven c = true → s.falls c = false → exec c s = .next s

/-- The part right after power-on reset: in LOAD, port single with both pointers 0, both lines QUIET with empty slots,
detectors NORMAL, no incident, no claim, every fan OFF, no order executed, every view entry EMPTY. -/
def Obligations.ResetLeavesTheStatedState : Prop :=
  State.reset.life = .load ∧ State.reset.running = none ∧ State.reset.pending = []
    ∧ ZeroPointers State.reset.spt ∧ State.reset.spt.queue = [] ∧ State.reset.spt.refused = false
    ∧ (∀ l, (State.reset.line l).state = .quiet ∧ (State.reset.line l).attempt = none
        ∧ ∀ k, (State.reset.line l).slot k = ⟨none, none⟩)
    ∧ State.reset.liu.seq = 0
    ∧ State.reset.inc.state = .quiet ∧ State.reset.inc.held = none ∧ State.reset.inc.retired = []
    ∧ State.reset.inc.smoke.state = .normal ∧ State.reset.inc.heat.state = .normal
    ∧ State.reset.inc.call.state = .normal ∧ State.reset.inc.operator.state = .normal
    ∧ State.reset.fch.claim = none ∧ (∀ f, (State.reset.fan f).state = .off ∧ (State.reset.fan f).target = .off)
    ∧ State.reset.sq.list = [] ∧ State.reset.sq.own = .none
    ∧ State.reset.ord.vent = none ∧ State.reset.tal.derating = 20 ∧ State.reset.tal.plan = none
    ∧ (∀ k, (State.reset.entry k).state = .empty ∧ (State.reset.entry k).origin = none)
    ∧ (∀ g, (State.reset.gateway g).origin = none ∧ (State.reset.gateway g).executed = none)
    ∧ State.reset.fiu.smoke.dead = true ∧ State.reset.fiu.temp.dead = true ∧ State.reset.fiu.window = []
    ∧ State.reset.fiu.history = [] ∧ State.reset.fiu.obs = none
    ∧ (∀ f, (State.reset.fanIn f).duty = 0 ∧ (State.reset.fanIn f).measured = 0)

/-! ## Node life -/

/-- A reset asserted: every block takes its reset state, the port loses what waits, the store stays; power-on reset also
returns mode and pointers, RESET_N leaves them. The part is held from then on (for power-on reset the model's choice:
log 8); while it is held PRDY is low (R162) and LOAD does not run. -/
def Obligations.ResetAssertedClearsTheBlocks : Prop :=
  ∀ s : State,
    Yields (.resetN .asserted) s (fun t =>
      BlocksReset s s.fiu.pins t ∧ StoreKept s t ∧ PortCleared s t ∧ SamePointers s.spt t.spt
      ∧ t.resets = { s.resets with resetN := true } ∧ t.resetHeld = true)
    ∧ Yields (.powerOnReset .asserted) s (fun t =>
      BlocksReset s s.fiu.pins t ∧ StoreKept s t ∧ PortCleared s t ∧ ZeroPointers t.spt
      ∧ t.resets = { s.resets with powerOn := true } ∧ t.resetHeld = true)
    ∧ (s.resetHeld = true ↔ s.resets.powerOn = true ∨ s.resets.resetN = true)
    ∧ (s.resetHeld = true → s.prdy = false ∧ exec .load s = .next s)

/-- A reset released: the blocks start from the pins' levels, in LOAD, and the port and the store are as the held part
left them, but for the pointers at power-on reset; LOAD is due, the engine idle, when no other reset stays in force.
While RESET_N stays low a release of power-on reset leaves PRDY low (R162); that a release of RESET_N waits for power-on
reset likewise, and that a release which follows no assertion is a whole reset: the model's choice, log 8. -/
def Obligations.ResetReleasedStartsLoad : Prop :=
  ∀ (s : State) (pins : PinLevels),
    (∀ t : State, t.life = .load → t.cst.engine = none → t.falls .load = !t.resetHeld)
    ∧ (s.resets.resetN = true →
      Yields (.resetN (.released pins)) s (fun t =>
        BlocksReset s pins t ∧ t.cst = s.cst ∧ t.spt = s.spt ∧ t.resets = { s.resets with resetN := false }
        ∧ t.resetHeld = s.resets.powerOn))
    ∧ (s.resets.powerOn = true →
      Yields (.powerOnReset (.released pins)) s (fun t =>
        BlocksReset s pins t ∧ t.cst = s.cst ∧ ZeroPointers t.spt ∧ t.spt.queue = s.spt.queue
        ∧ t.resets = { s.resets with powerOn := false } ∧ t.resetHeld = s.resets.resetN
        ∧ (s.resets.resetN = true → t.prdy = false)))
    ∧ (s.resets.resetN = false →
      Yields (.resetN (.released pins)) s (fun t =>
        BlocksReset s pins t ∧ StoreKept s t ∧ PortCleared s t ∧ SamePointers s.spt t.spt ∧ t.resets = s.resets))
    ∧ (s.resets.powerOn = false →
      Yields (.powerOnReset (.released pins)) s (fun t =>
        BlocksReset s pins t ∧ StoreKept s t ∧ PortCleared s t ∧ ZeroPointers t.spt ∧ t.resets = s.resets
        ∧ (s.resets.resetN = true → t.prdy = false)))

/-- LOAD that passes its four checks: the running copy latched, LISTEN for 3000 ms, counters, own inhibit and lockout
latches read from the store. A latch or inhibit byte other than 00h is taken as set (the model's choice: log 26). -/
def Obligations.LoadThatPassesEntersListen : Prop :=
  ∀ s : State, s.life = .load → s.resetHeld = false → s.cst.engine = none →
    s.cst.store.u16 0x3E = crc16 (s.cst.store.bytes 0 62) →
    s.cst.store.u16 0xBE = crc16 (s.cst.store.bytes 0x40 126) →
    4 ≤ s.cst.store.u8 0 → s.cst.store.u8 0 ≤ 96 →
    1 ≤ s.cst.store.u8 0x5A → s.cst.store.u8 0x5A ≤ s.cst.store.u8 0 →
    Yields .load s fun t =>
      t.life = .listen ∧ t.loadCause = .none ∧ t.running = some (latchRunning s.cst.store)
      ∧ t.listenUntil = some (s.now + ms 3000) ∧ t.fiu.sampleDue = some (s.now + ms 500)
      ∧ t.cst.store = s.cst.store ∧ t.spt = s.spt
      ∧ t.ord.inhibit = (s.cst.store.u8 0xC5 != 0) ∧ t.inc.declCounter.toNat = s.cst.store.u24 0xC8
      ∧ ∀ f : FanId,
        (t.fan f).starts.toNat = s.cst.store.u24 (0xD0 + 9 * f.val)
        ∧ (t.fan f).faults.toNat = s.cst.store.u24 (0xD3 + 9 * f.val)
        ∧ (t.fan f).minutes.toNat = s.cst.store.u24 (0xD6 + 9 * f.val)
        ∧ (if t.installed f = true ∧ s.cst.store.u8 (0xC1 + f.val) ≠ 0 then
            (t.fan f).state = .lockedOut ∧ (t.fan f).lockout = .latchedAtStart
          else (t.fan f).state = .off)

/-- LOAD that fails a check: CONFIG_INVALID, with the cause of the first check that fails, and nothing else (own
inhibit, latches, run minutes and counters not read from the store: the model's choice, log 49). -/
def Obligations.LoadThatFailsEntersConfigInvalid : Prop :=
  ∀ s : State, s.life = .load → s.resetHeld = false → s.cst.engine = none →
    let fails (c : LoadCause) : Prop := exec .load s = .next { s with life := .configInvalid, loadCause := c }
    if s.cst.store.u16 0x3E ≠ crc16 (s.cst.store.bytes 0 62) then fails .tunnelCrc
    else if s.cst.store.u16 0xBE ≠ crc16 (s.cst.store.bytes 0x40 126) then fails .nodeCrc
    else if s.cst.store.u8 0 < 4 ∨ 96 < s.cst.store.u8 0 then fails .tunnelSize
    else if s.cst.store.u8 0x5A < 1 ∨ s.cst.store.u8 0 < s.cst.store.u8 0x5A then fails .sectionIndex
    else ¬ ∃ c, fails c

/-- What LOAD latches (R169): every numeric setting as stored when it lies in its range, else its nearer bound;
enumerated settings by their codes, undefined ones replaced; calibration, and the settings of fans above fans installed,
as stored; a clamp flag for each setting so changed; the tag over 0000h to 003Dh as latched, fill included (R178). The
check codes: log 23. -/
def Obligations.LatchedSettingsAreTheStoredOnesInRange : Prop :=
  ∀ m : Memory,
    let c := (latchRunning m).settings
    (Limited (m.u8 0x00) 4 96 c.n ∧ Limited (m.u16 0x01) 150 600 c.vt ∧ Limited (m.u16 0x03) 0 4095 c.kp
      ∧ Limited (m.u16 0x05) 0 4095 c.ki ∧ Limited (m.u8 0x07) 0 100 c.initialDemand ∧ Limited (m.u8 0x08) 0 2 c.u
      ∧ Limited (m.u8 0x09) 1 8 c.d ∧ Limited (m.u8 0x0C) 1 4 c.startsLimit ∧ Limited (m.u16 0x0D) 150 400 c.exposure)
    ∧ (Limited (m.u16 0x0F) 0 20000 c.smokePre ∧ Limited (m.u16 0x11) 0 20000 c.smokeAlarm
      ∧ Limited (m.u8 0x13) 5 60 c.smokeConfirm ∧ Limited (m.u16 0x14) 40 400 c.heatPre
      ∧ Limited (m.u16 0x16) 40 400 c.heatAlarm ∧ Limited (m.u8 0x18) 1 100 c.riseAlarm
      ∧ Limited (m.u16 0x19) 0 300 c.guard)
    ∧ (Limited (m.u8 0x58) 10 90 c.startLimit ∧ Limited (m.u8 0x59) 20 60 c.sMin ∧ Limited (m.u8 0x5A) 1 c.n c.own
      ∧ Limited (m.u8 0x5B) 1 16 c.group ∧ Limited (m.u8 0x5C) 0 4 c.installed)
    ∧ (∀ f : FanId, f.val < c.installed →
        Limited (m.u16 (0x40 + 6 * f.val)) 20 300 c.fans[f].thrust
        ∧ Limited (m.u16 (0x42 + 6 * f.val)) 900 3000 c.fans[f].speed
        ∧ Limited (m.u8 (0x44 + 6 * f.val)) 1 8 c.fans[f].pulses
        ∧ Limited (m.u8 (0x45 + 6 * f.val)) 50 100 c.fans[f].reverse)
    ∧ (c.rule = if m.u8 0x0A = 0 then .fixedA else if m.u8 0x0A = 1 then .fixedB
        else if m.u8 0x0A = 2 then .followDraught else .nearPortal)
    ∧ (c.dflt = if m.u8 0x0B = 1 then .towardA else .towardB)
    ∧ c.calAnemo = ⟨m.i32 0x60, m.i32 0x64⟩ ∧ c.calSmoke = ⟨m.i32 0x68, m.i32 0x6C⟩
    ∧ c.calTemp = ⟨m.i32 0x70, m.i32 0x74⟩
    ∧ (∀ f : FanId, c.installed ≤ f.val → c.fans[f] = ⟨m.u16 (0x40 + 6 * f.val), m.u16 (0x42 + 6 * f.val),
        m.u8 (0x44 + 6 * f.val), m.u8 (0x45 + 6 * f.val)⟩)
    ∧ (∀ a, a ∈ (latchRunning m).clamps ↔
        (a, true) ∈ [(0x00, c.n != m.u8 0x00), (0x01, c.vt != m.u16 0x01), (0x03, c.kp != m.u16 0x03),
          (0x05, c.ki != m.u16 0x05), (0x07, c.initialDemand != m.u8 0x07), (0x08, c.u != m.u8 0x08),
          (0x09, c.d != m.u8 0x09), (0x0A, decide (3 < m.u8 0x0A)), (0x0B, decide (1 < m.u8 0x0B)),
          (0x0C, c.startsLimit != m.u8 0x0C), (0x0D, c.exposure != m.u16 0x0D), (0x0F, c.smokePre != m.u16 0x0F)]
        ∨ (a, true) ∈ [(0x11, c.smokeAlarm != m.u16 0x11), (0x13, c.smokeConfirm != m.u8 0x13),
          (0x14, c.heatPre != m.u16 0x14), (0x16, c.heatAlarm != m.u16 0x16), (0x18, c.riseAlarm != m.u8 0x18),
          (0x19, c.guard != m.u16 0x19), (0x58, c.startLimit != m.u8 0x58), (0x59, c.sMin != m.u8 0x59),
          (0x5A, c.own != m.u8 0x5A), (0x5B, c.group != m.u8 0x5B), (0x5C, c.installed != m.u8 0x5C)]
        ∨ ∃ f : FanId, f.val < c.installed ∧ (a, true) ∈
          [(0x40 + 6 * f.val, c.fans[f].thrust != m.u16 (0x40 + 6 * f.val)),
            (0x42 + 6 * f.val, c.fans[f].speed != m.u16 (0x42 + 6 * f.val)),
            (0x44 + 6 * f.val, c.fans[f].pulses != m.u8 (0x44 + 6 * f.val)),
            (0x45 + 6 * f.val, c.fans[f].reverse != m.u8 (0x45 + 6 * f.val))])
    ∧ (latchRunning m).tag = crc16 ([byteOf c.n] ++ le16 c.vt ++ le16 c.kp ++ le16 c.ki
      ++ [byteOf c.initialDemand, byteOf c.u, byteOf c.d, byteOf c.rule.code, byteOf c.dflt.code, byteOf c.startsLimit]
      ++ le16 c.exposure ++ le16 c.smokePre ++ le16 c.smokeAlarm ++ [byteOf c.smokeConfirm]
      ++ le16 c.heatPre ++ le16 c.heatAlarm ++ [byteOf c.riseAlarm] ++ le16 c.guard ++ m.bytes 0x1B 35)
    ∧ (latchRunning m).tunnelCheck = m.u16 0x3E ∧ (latchRunning m).nodeCheck = m.u16 0xBE

/-- The entry to RUN: a report of the own entry to each line not DOWN, and a deferred latch declared by the cases of
R61: with no incident held a new identity at the own section (R62, R63, R67), in DECLARED, a vent run ended; the own
record below the latch's severity is raised in place (R64), another station's is replaced by a new identity; a record
not below it stays. The declarer's INCIDENT frame goes out, and the declarer timer starts (R63, R64, R68); a new
identity draws its number (R62; a full counter asks for no update, read from R62 by inference: log 20). The lead
is re-evaluated (R85). The report period is that of the incident state (R33). -/
def Obligations.EntryToRunReportsAndDeclares : Prop :=
  ∀ s : State, s.life = .listen → isDue s.now s.listenUntil = true →
    Yields .entryToRun s fun t =>
      t.life = .run ∧ t.listenUntil = none ∧ t.running = s.running ∧ t.spt = s.spt ∧ t.cst.store = s.cst.store
      ∧ (∀ l, (s.line l).state ≠ .down →
          ((t.line l).report.newest.map Copy.payload) = some (encodeReport (t.entry t.own).report))
      ∧ t.liu.reportDue = some (s.now + match t.inc.state with
        | .quiet => ms 1000
        | .alert => ms 250
        | .declared | .controlled | .holding => ms 500)
      ∧ LeadJudged s t
      ∧ let kept : Prop := (t.inc.held.map fun h => (h.id, h.severity, h.locus, h.triple, h.pending))
          = (s.inc.held.map fun h => (h.id, h.severity, h.locus, h.triple, h.pending)) ∧ t.ord = s.ord;
        (s.inc.deferred = none → kept)
        ∧ ∀ v, s.inc.deferred = some v →
          (∀ k, s.inc.held = some k → v ≤ k.severity → kept)
          ∧ (∀ k, s.inc.held = some k → k.severity < v → k.id.station = s.own →
            (∃ h, t.inc.held = some h ∧ h.id = k.id ∧ h.severity = v ∧ h.locus = k.locus ∧ h.triple = k.triple
              ∧ h.pending = k.pending ∧ DeclarerSends s t h) ∧ t.ord = s.ord ∧ t.inc.declCounter = s.inc.declCounter)
          ∧ ((∀ k, s.inc.held = some k → k.severity < v ∧ k.id.station ≠ s.own) →
            ∃ h, t.inc.held = some h ∧ h.id.station = s.own ∧ (s.inc.retiredOk → h.id ∉ s.inc.retired)
              ∧ h.severity = v ∧ h.locus = s.own ∧ h.triple = ⟨s.ruleDirection s.own, 0, s.own⟩ ∧ h.pending = none
              ∧ t.inc.state = .declared ∧ t.ord = { s.ord with vent := none }
              ∧ t.inc.lead = false ∧ DeclarerSends s t h ∧ NumberDrawn s t h.id.number)

/-! ## The field inputs -/

/-- A sample-timer expiry closes the windows, takes the samples, forms the Local Observation and hands it over: the own
entry, the derating temperature and the fans' measured speeds are those of the observation, the smoke and heat detectors
are evaluated on it, and the exposure run goes on, ends, or locks every installed fan out. The rest of the own entry
shows what the blocks then hold (R44, R46); its config clamped mark is set by any clamp flag, that of a replaced
enumerated setting too, where R44 names numeric settings alone (read from R169 by inference: log 35). The fans exposed
are handled F1 first (the model's choice: log 53), which only the update list's order shows. The velocity window and the
temperature history hold the last 8 and the last 16, and give the velocity and the rise (R5, R10). -/
def Obligations.SampleExpiryFormsAndHandsOverTheObservation : Prop :=
  (∀ (n : Nat) (l : List (Option Int)) (x : Option Int),
    (l.length < n → pushLast n l x = l ++ [x]) ∧ (l.length = n → 0 < n → pushLast n l x = l.drop 1 ++ [x]))
  ∧ (∀ w : List (Option Int), let valid : List Int := w.filterMap id
    (valid.length < 4 → windowVelocity w = none)
    ∧ (4 ≤ valid.length → windowVelocity w = some (valid.sum.tdiv valid.length)))
  ∧ (∀ h : List (Option Int),
    (∀ oldest newest : Int, h.length = 16 → (∀ x ∈ h, x ≠ none) → h.head? = some (some oldest) →
      h.getLast? = some (some newest) → historyRise h = some (newest - oldest))
    ∧ (h.length < 16 ∨ h.length = 16 ∧ none ∈ h → historyRise h = none))
  ∧ ∀ s : State, s.active = true → isDue s.now s.fiu.sampleDue = true →
    Yields .sampleTimerExpiry s fun t => ∃ o, t.fiu.obs = some o
      ∧ o.speeds = (allFans.filter s.installed).map (fun f => (t.fanIn f).measured)
      ∧ t.fiu.sampleDue = some (s.now + ms 500) ∧ t.fiu.expiries = s.fiu.expiries + 1
      ∧ t.fiu.window = pushLast 8 s.fiu.window s.anemoSampleNow ∧ o.velocity = windowVelocity t.fiu.window
      ∧ o.smoke = s.smokeNow ∧ o.temperature = s.tempNow ∧ o.anemo = s.fiu.anemo.state
      ∧ o.smokeDead = s.fiu.smoke.dead ∧ o.tempDead = s.fiu.temp.dead
      ∧ o.callCount = min 255 (s.fiu.call1.count.toNat + s.fiu.call2.count.toNat)
      ∧ (if (s.fiu.expiries + 1) % 8 = 0 then
          t.fiu.history = pushLast 16 s.fiu.history s.tempNow ∧ o.rise = historyRise t.fiu.history
        else t.fiu.history = s.fiu.history ∧ o.rise = s.fiu.rise)
      ∧ (t.entry s.own).state = .fresh ∧ (t.entry s.own).writtenAt = s.now
      ∧ (t.entry s.own).report.velocity = o.velocity ∧ (t.entry s.own).report.smoke = o.smoke
      ∧ (t.entry s.own).report.temperature = o.temperature ∧ (t.entry s.own).report.callCount = o.callCount
      ∧ (t.entry s.own).report.anemo = o.anemo ∧ (t.entry s.own).report.smokeDead = o.smokeDead
      ∧ (t.entry s.own).report.tempDead = o.tempDead ∧ (t.entry s.own).tagMatch = true
      ∧ t.OwnEntryTold (t.entry t.own).report
      ∧ t.inc.smoke = evalSmoke s.cfg s.now o.smoke s.inc.smoke
      ∧ t.inc.heat = evalHeat s.cfg s.now o.temperature o.rise s.inc.heat
      ∧ t.inc.call = s.inc.call ∧ t.inc.operator = s.inc.operator
      ∧ (∀ v, o.temperature = some v → t.tal.derating = (max 0 (min v 400)).toNat)
      ∧ (o.temperature = none → t.tal.derating = 20)
      ∧ ((∀ v, o.temperature = some v → v < (s.cfg.exposure : Int)) →
          t.fch.exposureFrom = none ∧ t.fch.lastExposure = s.fch.lastExposure)
      ∧ (∀ v, o.temperature = some v → (s.cfg.exposure : Int) ≤ v →
          (s.fch.exposureFrom = none →
            t.fch.exposureFrom = some s.now ∧ t.fch.lastExposure = s.fch.lastExposure)
          ∧ (∀ a, s.fch.exposureFrom = some a → s.now < a + ms 10000 →
            t.fch.exposureFrom = some a ∧ t.fch.lastExposure = s.fch.lastExposure)
          ∧ (∀ a, s.fch.exposureFrom = some a → a + ms 10000 ≤ s.now →
            t.fch.exposureFrom = none ∧ t.fch.lastExposure = some s.now
            ∧ ∀ f, s.installed f = true → (t.fan f).state = .lockedOut
              ∧ ((s.fan f).state = .lockedOut → (t.fan f).lockout = (s.fan f).lockout)
              ∧ ((s.fan f).state ≠ .lockedOut → Asked t (.latch f) 1 ∧ (t.fanIn f).pendingDuty = some 0
                ∧ ((t.fan f).lockout = .exposure ∨ (t.fan f).lockout = .thirdFault))))
      ∧ (∀ f, s.installed f = true →
          (t.fanIn f).count = 0
          ∧ (t.fanIn f).rpm = ((s.fanIn f).count * 30).tdiv s.cfg.fans[f].pulses
          ∧ (t.fanIn f).measured = max (-200) (min 200 (((t.fanIn f).rpm * 100).tdiv s.cfg.fans[f].speed))
          ∧ (t.fan f).measured = (t.fanIn f).measured)
      ∧ t.running = s.running ∧ t.spt = s.spt ∧ t.cst.store = s.cst.store

/-- The calibrated value: the exact sum divided by 65536, to the nearest whole number half away from zero, held in the
channel's range (R8). The raw values are the floors of R4 and R6; a stuck anemometer and a DEAD channel give no sample
(R4, R9). -/
def Obligations.CalibrationRoundsAndLimits : Prop :=
  (∀ a : Anemometer, 0 < a.high + a.low →
    a.raw * (a.high + a.low) ≤ 65535 * a.high ∧ 65535 * a.high < (a.raw + 1) * (a.high + a.low))
  ∧ (∀ p : PeriodCh, 0 < p.period → p.raw * p.period ≤ 1000000 ∧ 1000000 < (p.raw + 1) * p.period)
  ∧ ∀ s : State,
    (s.fiu.anemo.state ≠ .ok → s.anemoSampleNow = none)
    ∧ (s.fiu.smoke.dead = true → s.smokeNow = none) ∧ (s.fiu.temp.dead = true → s.tempNow = none)
    ∧ (s.fiu.anemo.state = .ok → ∃ q, NearestAway (s.cfg.calAnemo.slope * s.fiu.anemo.raw + s.cfg.calAnemo.offset) 65536 q
      ∧ s.anemoSampleNow = some (max (-2000) (min 2000 q)))
    ∧ (s.fiu.smoke.dead = false → ∃ q, NearestAway (s.cfg.calSmoke.slope * s.fiu.smoke.raw + s.cfg.calSmoke.offset) 65536 q
      ∧ s.smokeNow = some (max 0 (min 20000 q)))
    ∧ (s.fiu.temp.dead = false → ∃ q, NearestAway (s.cfg.calTemp.slope * s.fiu.temp.raw + s.cfg.calTemp.offset) 65536 q
      ∧ s.tempNow = some (max (-40) (min 1200 q)))

/-- Anemometer edges: a rising edge that ends a complete period stores its pair and makes the channel OK; every edge
restarts the watch; the watch's expiry makes the channel stuck by the line level. Period channels: the second rising
edge of a pair stores the period and makes the channel OK; 1000 ms without one make it DEAD with its period kept.
Nothing else changes. -/
def Obligations.CaptureChannelsFollowEdgesAndWatches : Prop :=
  (∀ s : State, s.resetHeld = false →
    let a := s.fiu.anemo
    let put (x : Anemometer) : State := { s with fiu := { s.fiu with anemo := x } }
    exec (.anemometerEdge a.level) s = .next s
    ∧ (a.level = true → exec (.anemometerEdge false) s =
        .next (put { a with level := false, watchFrom := s.now,
                            fallAt := if a.riseAt.isSome && a.fallAt.isNone then some s.now else a.fallAt }))
    ∧ (a.level = false → ∀ r f, a.riseAt = some r → a.fallAt = some f → exec (.anemometerEdge true) s =
        .next (put { level := true, state := .ok, high := max 1 (min 65535 (f - r)),
                     low := max 1 (min 65535 (s.now - f)), watchFrom := s.now, riseAt := some s.now, fallAt := none }))
    ∧ (a.level = false → (a.riseAt = none ∨ a.fallAt = none) → exec (.anemometerEdge true) s =
        .next (put { a with level := true, watchFrom := s.now, riseAt := some s.now, fallAt := none }))
    ∧ (a.watchFrom + ms 100 ≤ s.now → exec .anemometerWatchExpiry s =
        .next (put { level := a.level, state := if a.level then .stuckHigh else .stuckLow,
                     high := if a.level then 65535 else 0, low := if a.level then 0 else 65535,
                     watchFrom := s.now, riseAt := none, fallAt := none })))
  ∧ ∀ (s : State) (c : PeriodChannel), s.resetHeld = false →
    let p := s.fiu.period c
    (∀ r, p.riseAt = some r → exec (.periodChannelEdge c) s =
      .next (s.modPeriod c fun _ => { dead := false, period := max 1 (s.now - r), riseAt := some s.now, watchFrom := s.now }))
    ∧ (p.riseAt = none → exec (.periodChannelEdge c) s =
      .next (s.modPeriod c fun _ => { p with riseAt := some s.now, watchFrom := s.now }))
    ∧ (p.watchFrom + ms 1000 ≤ s.now → exec (.periodChannelWatchExpiry c) s =
      .next (s.modPeriod c fun _ => { p with dead := true, riseAt := none, watchFrom := s.now }))

/-- Call points: an edge within 50 ms of an accepted one, or in LOAD, does nothing; an accepted one is counted; in
CONFIG_INVALID that is all. An edge at exactly 50 ms is ignored (the model's choice: log 10). -/
def Obligations.CallPointEdgesAreCounted : Prop :=
  ∀ (s : State) (p : CallPoint),
    let c := s.fiu.call p
    (s.life = .load → exec (.callPointEdge p) s = .next s)
    ∧ (∀ a, c.acceptedAt = some a → s.now ≤ a + ms 50 → exec (.callPointEdge p) s = .next s)
    ∧ (s.life ≠ .load → (∀ a, c.acceptedAt = some a → a + ms 50 < s.now) →
        Yields (.callPointEdge p) s fun t =>
          (t.fiu.call p).count.toNat = min 65535 (c.count.toNat + 1) ∧ (t.fiu.call p).acceptedAt = some s.now
          ∧ (s.life = .configInvalid →
              t = s.setCall p { count := (t.fiu.call p).count, acceptedAt := some s.now }))

/-- A CALL event latches the call detector (R58); the smoke and the heat detector are evaluated on an observation:
latched as they are, OUT_OF_SERVICE without a value, held for re-arm, PRE_ALARM, the confirm and the heat run, the rate
of rise (R55 to R57, R60). In RUN a new latch declares at the own section, or raises the own incident; in LISTEN it
waits (R61, R63 to R65). A declaration takes its direction from the running rule (R67), brings DECLARED and ends a vent
run; it draws its number (R62; a full counter asks for no update, read from R62 by inference: log 20), and its INCIDENT
frame and that of a raise in place go out, with the declarer timer started (R63, R64, R68). Without an incident an
evaluation with a detector active takes QUIET to ALERT and in ALERT stops the clear timer; one with none active in ALERT
starts it at 30 s and does not restart it (R53). The latch ends the confirm and the heat run (the model's choice: log
44). -/
def Obligations.DetectorsLatchAndDeclare : Prop :=
  (∀ (s : State) (k : Nat), s.ByRule k (s.ruleDirection k))
  ∧ (∀ (s : State) (p : CallPoint), s.active = true → s.inc.call.state = .normal →
    (∀ a, (s.fiu.call p).acceptedAt = some a → a + ms 50 < s.now) →
    Yields (.callPointEdge p) s fun t =>
      t.inc.call = { state := .alarm, latched := true, rearm := false, since := none }
      ∧ t.inc.smoke = s.inc.smoke ∧ t.inc.heat = s.inc.heat ∧ t.inc.operator = s.inc.operator
      ∧ t.inc.retired = s.inc.retired
      ∧ (s.life = .run → s.inc.held = none → ∃ h, t.inc.held = some h ∧ h.id.station = s.own
          ∧ (s.inc.retiredOk → h.id ∉ s.inc.retired) ∧ h.severity = 2 ∧ h.locus = s.own
          ∧ h.triple = ⟨s.ruleDirection s.own, 0, s.own⟩ ∧ h.pending = none
          ∧ t.inc.state = .declared ∧ t.ord.vent = none
          ∧ t.inc.lead = false ∧ DeclarerSends s t h ∧ NumberDrawn s t h.id.number)
      ∧ (∀ k, s.life = .run → s.inc.held = some k → k.severity < 2 → k.id.station = s.own →
          t.inc.held = some { k with severity := 2 } ∧ t.inc.state = s.inc.state ∧ t.inc.lead = s.inc.lead
          ∧ t.inc.declCounter = s.inc.declCounter ∧ t.ord = s.ord ∧ DeclarerSends s t { k with severity := 2 })
      ∧ (∀ k, s.life = .run → s.inc.held = some k → k.severity < 2 → k.id.station ≠ s.own →
          ∃ h, t.inc.held = some h ∧ h.id.station = s.own ∧ h.severity = 2 ∧ h.locus = s.own
          ∧ t.inc.state = .declared ∧ DeclarerSends s t h ∧ NumberDrawn s t h.id.number)
      ∧ (s.life = .listen → s.inc.held = none → (s.inc.state = .quiet ∨ s.inc.state = .alert) →
          t.inc.held = none ∧ t.inc.state = .alert ∧ (s.inc.state = .alert → t.inc.alertClear = none))
      ∧ t.running = s.running ∧ t.spt = s.spt ∧ t.cst.store = s.cst.store)
  ∧ (∀ (c : Settings) (now : Nat) (x : Option Int) (d : Detector),
    let e := evalSmoke c now x d
    let pre : Nat := min c.smokePre c.smokeAlarm
    (d.latched = true → e = d)
    ∧ (d.latched = false → x = none → e = { d with state := .outOfService, since := none })
    ∧ ∀ v, d.latched = false → x = some v →
      (d.rearm = true → v < (pre : Int) → e = ⟨.normal, false, false, none⟩)
      ∧ (d.rearm = true → (pre : Int) ≤ v → e = { d with state := .alarm })
      ∧ (d.rearm = false →
        (v < (pre : Int) → e = ⟨.normal, false, false, none⟩)
        ∧ ((pre : Int) ≤ v → v < (c.smokeAlarm : Int) → e = ⟨.preAlarm, false, false, none⟩)
        ∧ ((c.smokeAlarm : Int) ≤ v →
          (∀ a, d.state = .confirming → d.since = some a → now - a < sec c.smokeConfirm → e = d)
          ∧ (∀ a, d.state = .confirming → d.since = some a → sec c.smokeConfirm ≤ now - a →
            e = ⟨.alarm, true, false, none⟩)
          ∧ ((d.state ≠ .confirming ∨ d.since = none) → e = ⟨.confirming, false, false, some now⟩))))
  ∧ (∀ (c : Settings) (now : Nat) (y r : Option Int) (d : Detector),
    let e := evalHeat c now y r d
    let pre : Nat := min c.heatPre c.heatAlarm
    (d.latched = true → e = d)
    ∧ (d.latched = false → y = none → e = { d with state := .outOfService, since := none })
    ∧ ∀ v, d.latched = false → y = some v →
      (d.rearm = true → v < (pre : Int) → e = ⟨.normal, false, false, none⟩)
      ∧ (d.rearm = true → (pre : Int) ≤ v → e = { d with state := .alarm })
      ∧ (d.rearm = false →
        (∀ x, r = some x → (c.riseAlarm : Int) ≤ x → e = ⟨.alarm, true, false, none⟩)
        ∧ ((∀ x, r = some x → x < (c.riseAlarm : Int)) →
          (v < (pre : Int) → e = ⟨.normal, false, false, none⟩)
          ∧ ((pre : Int) ≤ v → v < (c.heatAlarm : Int) → e = ⟨.preAlarm, false, false, none⟩)
          ∧ ((c.heatAlarm : Int) ≤ v → let start := d.since.getD now
            (now - start < ms 3000 → e = ⟨.preAlarm, false, false, some start⟩)
            ∧ (ms 3000 ≤ now - start → e = ⟨.alarm, true, false, none⟩)))))
  ∧ ∀ s : State, s.active = true → isDue s.now s.fiu.sampleDue = true →
    Yields .sampleTimerExpiry s fun t =>
      let latches (v : Nat) : Prop :=
        if t.inc.heat.latched = true ∧ s.inc.heat.latched = false then v = 3
        else t.inc.smoke.latched = true ∧ s.inc.smoke.latched = false ∧ v = 1
      let same : Prop := (t.inc.held.map fun h => (h.id, h.severity, h.locus, h.triple))
        = (s.inc.held.map fun h => (h.id, h.severity, h.locus, h.triple))
      let active : Prop := ∃ d ∈ [t.inc.smoke, t.inc.call, t.inc.heat, t.inc.operator],
        d.state = .preAlarm ∨ d.state = .confirming ∨ d.state = .alarm;
      (s.inc.held = none → t.inc.held = none →
        (s.inc.state = .quiet → active → t.inc.state = .alert)
        ∧ (s.inc.state = .quiet → ¬ active → t.inc.state = .quiet)
        ∧ (s.inc.state = .alert → active → t.inc.state = .alert ∧ t.inc.alertClear = none)
        ∧ (s.inc.state = .alert → ¬ active → t.inc.state = .alert
          ∧ (s.inc.alertClear = none → t.inc.alertClear = some (s.now + sec 30))
          ∧ (∀ e, s.inc.alertClear = some e → t.inc.alertClear = some e)))
      ∧ ((s.life = .listen ∨ ∀ v, ¬ latches v) → same)
      ∧ ∀ v, s.life = .run → latches v →
        (∀ k, s.inc.held = some k → v ≤ k.severity → same)
        ∧ (∀ k, s.inc.held = some k → k.severity < v → k.id.station = s.own →
          (∃ h, t.inc.held = some h ∧ h.id = k.id ∧ h.severity = v ∧ h.locus = k.locus ∧ h.triple = k.triple)
          ∧ t.inc.declCounter = s.inc.declCounter ∧ t.inc.declarerDue = some (s.now + ms 2000)
          ∧ ∀ l, (s.line l).state ≠ .down → ∃ y, (t.line l).incident.newest = some y ∧ s.liu.frames ≤ y.id
            ∧ y.payload.take 3 = [byteOf k.id.station, k.id.number, byteOf v])
        ∧ ((∀ k, s.inc.held = some k → k.severity < v ∧ k.id.station ≠ s.own) →
          ∃ h, t.inc.held = some h ∧ h.id.station = s.own ∧ (s.inc.retiredOk → h.id ∉ s.inc.retired)
            ∧ h.severity = v ∧ h.locus = s.own ∧ h.triple.version = 0 ∧ h.triple.source = s.own ∧ h.pending = none
            ∧ (s.cfg.rule ≠ .followDraught → h.triple.dir = s.ruleDirection s.own)
            ∧ t.inc.state = .declared ∧ t.ord.vent = none
            ∧ t.inc.lead = false ∧ DeclarerSends s t h ∧ NumberDrawn s t h.id.number)

/-- Tachometer: an edge of one phase is one count, up when A leads B, within ±32767; both phases together are none; in
LOAD, also where it waits and then fails (log 39), and of a fan not installed nothing is counted. The window timer of
CONFIG_INVALID closes the windows with the store's bytes as they stand; a fan not installed keeps its count, rpm and
measured speed (the model's choice: log 38). P and rated speed are those bytes, limited to their ranges (R12). -/
def Obligations.TachometersCountAndMeasure : Prop :=
  (∀ (s : State) (f : FanId) (a b : Bool),
    Yields (.tachometerEdge f a b) s fun t =>
      t = s.modFanIn f (fun x => { x with phaseA := a, phaseB := b, count := (t.fanIn f).count })
      ∧ (s.life = .load ∨ s.installed f = false → (t.fanIn f).count = (s.fanIn f).count)
      ∧ (s.life ≠ .load → s.installed f = true →
          let x := s.fanIn f
          let put (d : Int) : Prop :=
            (t.fanIn f).count = if -32767 ≤ x.count + d ∧ x.count + d ≤ 32767 then x.count + d else x.count
          if (a ≠ x.phaseA ∧ b ≠ x.phaseB) ∨ (a = x.phaseA ∧ b = x.phaseB) then (t.fanIn f).count = x.count
          else if a ≠ x.phaseA then put (if a = b then -1 else 1)
          else put (if a = b then 1 else -1)))
  ∧ (∀ (m : Memory) (f : FanId), Limited (m.u8 (0x44 + 6 * f.val)) 1 8 (storePulses m f)
      ∧ Limited (m.u16 (0x42 + 6 * f.val)) 900 3000 (storeSpeed m f))
  ∧ ∀ s : State, s.life = .configInvalid → isDue s.now s.fiu.windowDue = true →
    Yields .tachWindowTimerExpiry s fun t =>
      t.fiu.windowDue = some (s.now + ms 500)
      ∧ (∀ f, if s.installed f = true then
          (t.fanIn f).count = 0
          ∧ (t.fanIn f).rpm = ((s.fanIn f).count * 30).tdiv (storePulses s.cst.store f)
          ∧ (t.fanIn f).measured = max (-200) (min 200 (((t.fanIn f).rpm * 100).tdiv (storeSpeed s.cst.store f)))
        else t.fanIn f = s.fanIn f)
      ∧ t = { s with fiu := t.fiu } ∧ t.fiu.obs = s.fiu.obs ∧ t.fiu.window = s.fiu.window

/-- Drive-fault contacts: a level that differs starts 50 ms, its return discards them; at their end the debounced state
takes the level, and a BRAKING, START_WAIT, STARTING or RUNNING fan of a node in RUN goes to FAULT (R128). A contact
that clears takes a fan in FAULT whose hold is over to OFF, where the target in force is acted on; during the hold the
fan stays in FAULT (R130). -/
def Obligations.DriveFaultIsDebouncedAndFaults : Prop :=
  ∀ (s : State) (f : FanId), s.resetHeld = false → s.installed f = true →
    (∀ active, exec (.driveFaultInputChange f active) s =
      .next (s.modFanIn f fun x =>
        { x with faultLevel := active,
                 differsFrom := if active = x.debounced then none else some (x.differsFrom.getD s.now) }))
    ∧ ∀ d, (s.fanIn f).differsFrom = some d → d + ms 50 ≤ s.now →
      Yields (.driveFaultDebounceExpiry f) s fun t =>
        (t.fanIn f).debounced = (s.fanIn f).faultLevel ∧ (t.fanIn f).differsFrom = none
        ∧ (s.life = .run → (s.fanIn f).faultLevel = true →
            ((s.fan f).state = .braking ∨ (s.fan f).state = .startWait ∨ (s.fan f).state = .starting
              ∨ (s.fan f).state = .running) →
            { t.fan f with target := .off } = { (s.fan f).afterFault .drive s.now with target := .off }
            ∧ (t.fanIn f).pendingDuty = some 0)
        ∧ (s.life = .run → (s.fanIn f).faultLevel = false → (s.fan f).state = .fault → (s.fan f).holdUntil = none →
            FromOff (s.modFanIn f fun x => { x with debounced := false, differsFrom := none }) t f
            ∧ (t.fan f).faultCount = (s.fan f).faultCount)
        ∧ (s.life = .run → (s.fan f).state = .fault →
            ((s.fanIn f).faultLevel = true ∨ (s.fan f).holdUntil ≠ none) →
            { t.fan f with target := .off } = { s.fan f with target := .off })
        ∧ t.inc.bare = s.inc.bare ∧ t.ord = s.ord ∧ t.spt = s.spt ∧ t.cst.store = s.cst.store
        ∧ ∀ g, g ≠ f → (s.fan g).Settles (t.fan g)

/-- At a PWM period boundary the output takes the pending duty, and nothing else changes. Inside a period the output is
high for duty · 100 µs from its start and low for the rest (R15). -/
def Obligations.PwmBoundaryTakesThePendingDuty : Prop :=
  (∀ (s : State) (f : FanId), s.resetHeld = false → (s.fanIn f).periodFrom + ms 10 ≤ s.now →
    exec (.pwmPeriodBoundary f) s =
      .next (s.modFanIn f fun x =>
        { x with duty := x.pendingDuty.getD x.duty, pendingDuty := none, periodFrom := s.now }))
  ∧ ∀ (s : State) (f : FanId),
    (s.resetHeld = true → s.pwmHigh f = false)
    ∧ ∀ i, s.resetHeld = false → s.now = (s.fanIn f).periodFrom + i → i < ms 10 →
      (s.pwmHigh f = true ↔ i < (s.fanIn f).duty * 100)
      ∧ ((s.fanIn f).duty = 0 → s.pwmHigh f = false) ∧ ((s.fanIn f).duty = 100 → s.pwmHigh f = true)

/-! ## The lines -/

/-- Noise is counted; 3000 ms without a valid peer frame make an UP line QUIET with its slots as they are; a DOWN line's
probe timer places a report of the own entry in its slot. At noise the idle time runs from the last stop cell, told by
the command's operand and no more than 120 µs before (the model's choice: log 11). -/
def Obligations.NoiseQuietWatchAndProbe : Prop :=
  ∀ (s : State) (l : LineId), s.active = true →
    (∀ idle, exec (.lineNoise ⟨l, idle⟩) s = .next (s.modLine l fun x =>
      { x with noise := satInc x.noise, idleSince := s.now - min idle 120 }))
    ∧ ((s.line l).state = .up → (s.line l).quietFrom + ms 3000 ≤ s.now → Yields (.quietWatchExpiry l) s fun t =>
        (t.line l).bare = { (s.line l).bare with state := .quiet }
        ∧ (∀ k, Slot.Offered s.liu.frames ((s.line l).slot k) ((t.line l).slot k))
        ∧ (∀ m, m ≠ l → (t.line m).bare = (s.line m).bare)
        ∧ Steady s t ∧ t.inc.bare = s.inc.bare ∧ t.ord = s.ord)
    ∧ ((s.line l).state = .down → isDue s.now (s.line l).probeDue = true → Yields (.probeTimerExpiry l) s fun t =>
        (t.line l).probeDue = some (s.now + sec 5)
        ∧ ((t.line l).report.newest.map fun c => (c.payload, c.attempts, c.header))
            = some (encodeReport (s.entry s.own).report, 0, none)
        ∧ (t.line l).incident = (s.line l).incident ∧ (t.line l).claim = (s.line l).claim
        ∧ (t.line l).state = .down ∧ (∀ m, m ≠ l → t.line m = s.line m) ∧ t.liu.seq = s.liu.seq
        ∧ t = { s with liu := t.liu })

/-- An attempt starts with the frame of the lowest class at its gap, and numbers a frame that has no number with the own
sequence number, the lines' states and the check code; its bytes on the line are the preamble, the header, the payload
and the check code low byte first; without a frame at its gap nothing starts. The line was not busy, and is busy from
then on. Classes run INCIDENT, START_CLAIM, SECTION_REPORT, with their gaps and the retry addition of R24. The idle time
reached is the command's operand (the model's choice: log 11). -/
def Obligations.AttemptStartsAndNumbersTheFrame : Prop :=
  (∀ x : Line,
    (∀ c, x.incident.cur = some c → x.candidate = some (.incident, c))
    ∧ (∀ c, x.incident.cur = none → x.claim.cur = some c → x.candidate = some (.claim, c))
    ∧ (∀ c, x.incident.cur = none → x.claim.cur = none → x.report.cur = some c → x.candidate = some (.report, c))
    ∧ (x.incident.cur = none → x.claim.cur = none → x.report.cur = none → x.candidate = none))
  ∧ (∀ own r : Nat,
    let retry : Nat := if 1 ≤ r then r * 100 + own / 16 * 100 else 0
    requiredGap own .incident r = 400 + retry ∧ requiredGap own .claim r = 600 + retry
    ∧ requiredGap own .report r = 800 + own % 16 * 100 + retry)
  ∧ ∀ (s : State) (l : LineId) (idle : Nat),
    (∀ k c, s.life = .run → (s.line l).attempt = none → (s.line l).candidate = some (k, c) →
      requiredGap s.own k c.attempts ≤ idle → (s.line l).idleSince + idle ≤ s.now →
      Yields (.attemptStart l idle) s fun t =>
        let sent (q flags : Byte) (check : Nat) : List Byte :=
          [0x55, 0x55, 0xC7, byteOf k.frameKind.code, byteOf s.own, q, flags] ++ c.payload
            ++ [byteOf (check % 256), byteOf (check / 256)]
        (t.line l).attempt = some k ∧ (t.line l).idleSince = s.now - idle ∧ (t.line l).attemptFrom = s.now
        ∧ (s.line l).busy s.now = false ∧ (t.line l).busy s.now = true ∧ t = { s with liu := t.liu }
        ∧ (c.header = none →
            let flags := byteOf (s.liu.l1.state.code + 4 * s.liu.l2.state.code)
            let check := crc16 (byteOf k.frameKind.code :: byteOf s.own :: s.liu.seq :: flags :: c.payload)
            ((t.line l).slot k).cur = some { c with header := some ⟨s.liu.seq, flags, check⟩ }
            ∧ t.liu.seq = s.liu.seq + 1 ∧ t.sends l = some (sent s.liu.seq flags check))
        ∧ (∀ h, c.header = some h → (t.line l).slot k = (s.line l).slot k ∧ t.liu.seq = s.liu.seq
            ∧ t.sends l = some (sent h.seq h.flags h.check)))
    ∧ ((s.life ≠ .run ∨ (s.line l).attempt ≠ none ∨ (s.line l).candidate = none
        ∨ ∃ k c, (s.line l).candidate = some (k, c) ∧ idle < requiredGap s.own k c.attempts) →
      exec (.attemptStart l idle) s = .next s)

/-- A clean attempt: the copy leaves, the next frame takes its slot, the drop count returns to 0, and on a DOWN line the
probe outcome is set. -/
def Obligations.CleanAttemptEmptiesTheSlot : Prop :=
  ∀ (s : State) (l : LineId) (k : TxKind) (c : Copy), (s.line l).inAttempt = some (k, c) →
    Yields (.attemptClean l) s fun t =>
      (t.line l).bare = { (s.line l).bare with
        attempt := none, drops := 0, idleSince := s.now
        probeOk := if (s.line l).state = .down then true else (s.line l).probeOk }
      ∧ Slot.Offered s.liu.frames ⟨((s.line l).slot k).nxt, none⟩ ((t.line l).slot k)
      ∧ (∀ j, j ≠ k → Slot.Offered s.liu.frames ((s.line l).slot j) ((t.line l).slot j))
      ∧ (∀ m, m ≠ l → (t.line m).bare = (s.line m).bare)
      ∧ t.liu.seq = s.liu.seq ∧ Steady s t ∧ t.inc.bare = s.inc.bare ∧ t.ord = s.ord

/-- A collision: counted; the 16th drops the copy; else the next frame takes its place or the copy stays with its
attempt count raised. The third drop in a row of a line that is not DOWN makes it DOWN with its slots emptied. The
line's idle time restarts at the attempt's end, told by its command (the model's choice: log 11). -/
def Obligations.CollisionRetriesOrDrops : Prop :=
  ∀ (s : State) (l : LineId) (k : TxKind) (c : Copy), (s.line l).inAttempt = some (k, c) → (s.line l).dropsOk →
    Yields (.attemptCollision l) s fun t =>
      let x := s.line l
      let y := t.line l
      y.attempt = none ∧ y.idleSince = s.now ∧ y.collisions = satInc x.collisions
      ∧ (c.attempts + 1 < 16 → y.dropped = x.dropped ∧ y.drops = x.drops ∧ y.state = x.state ∧ y.downs = x.downs
          ∧ Slot.Offered s.liu.frames
              (match (x.slot k).nxt with
                | some n => ⟨some n, none⟩
                | none => ⟨some { c with attempts := c.attempts + 1 }, none⟩) (y.slot k))
      ∧ (16 ≤ c.attempts + 1 → y.dropped = satInc x.dropped
          ∧ (x.state = .down → y.state = .down ∧ y.drops = x.drops ∧ y.probeOk = false ∧ y.downs = x.downs)
          ∧ (x.state ≠ .down → x.drops + 1 < 3 → y.state = x.state ∧ y.drops = x.drops + 1 ∧ y.downs = x.downs
              ∧ Slot.Offered s.liu.frames ⟨(x.slot k).nxt, none⟩ (y.slot k))
          ∧ (x.state ≠ .down → x.drops + 1 = 3 → y.state = .down ∧ y.downs = satInc x.downs ∧ y.probeOk = false
              ∧ y.probeDue = some (s.now + sec 5) ∧ ∀ j, Slot.Offered s.liu.frames ⟨none, none⟩ (y.slot j)))
      ∧ (∀ m, m ≠ l → (t.line m).bare = (s.line m).bare)
      ∧ t.liu.seq = s.liu.seq ∧ Steady s t ∧ t.inc.bare = s.inc.bare ∧ t.ord = s.ord

/-- An attempt whose echo is absent: an UP or QUIET line goes DOWN at once, its slots emptied, its probe outcome clear,
its probe timer at 5 s. A line already DOWN stays DOWN with its probe outcome clear (R28). The idle time goes on from
the last stop cell read: of the attempt's bytes, 40 µs each without a gap from its start, the last that has ended, else
the one before the attempt (R19; the model's choice: log 11). A line already DOWN keeps its DOWN count and its probe
timer (read from R28 by inference: log 12). -/
def Obligations.EchoAbsentMakesTheLineDown : Prop :=
  ∀ (s : State) (l : LineId) (k : TxKind) (c : Copy), (s.line l).inAttempt = some (k, c) →
    Yields (.attemptEchoAbsent l) s fun t =>
      (t.line l).state = .down ∧ (t.line l).attempt = none ∧ (t.line l).probeOk = false
      ∧ (s.now < (s.line l).attemptFrom + 40 → (t.line l).idleSince = (s.line l).idleSince)
      ∧ (∀ j, 1 ≤ j → (s.line l).attemptFrom + 40 * j ≤ s.now → s.now < (s.line l).attemptFrom + 40 * j + 40 →
          (t.line l).idleSince = (s.line l).attemptFrom + 40 * j)
      ∧ ((s.line l).state ≠ .down → (t.line l).downs = satInc (s.line l).downs
          ∧ (t.line l).probeDue = some (s.now + sec 5)
          ∧ ∀ j, Slot.Offered s.liu.frames ⟨none, none⟩ ((t.line l).slot j))
      ∧ ((s.line l).state = .down → (t.line l).downs = (s.line l).downs ∧ (t.line l).probeDue = (s.line l).probeDue)
      ∧ (∀ m, m ≠ l → (t.line m).bare = (s.line m).bare
          ∧ ∀ j, Slot.Offered s.liu.frames ((s.line m).slot j) ((t.line m).slot j))
      ∧ t.liu.seq = s.liu.seq ∧ Steady s t ∧ t.inc.bare = s.inc.bare ∧ t.ord = s.ord

/-- The end of an event writes the own entry as the blocks then hold it (R44, R46), the config clamped mark set by any
clamp flag, that of a replaced enumerated setting too, where R44 names numeric settings alone (read from R169 by
inference: log 35); in RUN a change of node state, summary, fans running or own inhibit hands over a report of it at
once (R33, R45). The timers that hand over frames: the report timer a report of the own entry, the declarer timer an
INCIDENT frame of the held record (a lead's with the control velocity of its last step: log 51), the re-send timer a
frame of the open claim; each starts anew. A frame handed over is placed on each line not DOWN: in an empty slot, in
place of the copy that waits, or as the next frame of a copy in an attempt (R22; where another kind's copy is in the
attempt, the model's choice: log 46). A line newly UP gets a frame of the open claim at once (R149). The period of the
report timer (R33), and the payloads sent, each read back by the fields of R36, R68, R88, R139 in their bytes (R174).
What one event's end does, and that one report shows all its changes: the model's choice, log 5. -/
def Obligations.TimersHandOverTheirFrames : Prop :=
  (reportPeriod .quiet = ms 1000 ∧ reportPeriod .alert = ms 250 ∧ reportPeriod .declared = ms 500
    ∧ reportPeriod .controlled = ms 500 ∧ reportPeriod .holding = ms 500)
  ∧ (∀ r : Report, r.InRange → ReportSent (encodeReport r) r)
  ∧ (∀ (n o : Nat) (h : Held) (declarer lead : Bool) (vc : Option Int) (st : IncState), n ≤ 96 →
    Station n h.id.station → 1 ≤ h.severity → h.severity ≤ 4 →
    (h.severity = 4 ↔ 97 ≤ h.id.station ∧ h.id.station ≤ 100) → Station n h.triple.source → 1 ≤ h.locus → h.locus ≤ n →
    (declarer = true → o = h.id.station) →
    (lead = true → ¬ (97 ≤ o ∧ o ≤ 100) ∧ ∃ d, h.demand = some d ∧ d.t ≤ 16777215) →
    (∀ v, vc = some v → -32768 ≤ v ∧ v ≤ 32767) →
    IncidentSent n o (encodeIncident h declarer lead vc st) h declarer lead vc st)
  ∧ (∀ m : ClaimMsg, 1 ≤ m.group → m.group ≤ 16 → 1 ≤ m.fan → m.fan ≤ 4 →
    ClaimReads (encodeClaim m) m ∧ (encodeClaim m).length = 4)
  ∧ (∀ s : State, s.active = true → s.finish.OwnEntryTold (s.finish.entry s.own).report)
  ∧ (∀ s : State, s.life = .run →
    let t := s.finish
    ReportsAtOnce (s.entry s.own).report (t.entry s.own).report →
    t.liu.reportDue = some (s.now + reportPeriod t.inc.state)
    ∧ ∀ l, (s.line l).state ≠ .down →
      (t.line l).report.newest.map Copy.payload = some (encodeReport (t.entry s.own).report))
  ∧ (∀ (s : State) (k : TxKind) (p : List Byte) (l : LineId),
    let x := s.line l
    let y := (s.handOver k p).line l
    let c : Copy := { id := s.liu.frames, payload := p, attempts := 0, header := none };
    (s.life ≠ .run → s.handOver k p = s)
    ∧ (x.state = .down → y = x)
    ∧ (s.life = .run → x.state ≠ .down →
        y.bare = x.bare ∧ (∀ j, j ≠ k → y.slot j = x.slot j)
        ∧ ((x.slot k).cur = none → y.slot k = { cur := some c, nxt := none })
        ∧ (∀ b, (x.slot k).cur = some b → x.attempt ≠ some k → y.slot k = { cur := some c, nxt := none })
        ∧ (∀ b, (x.slot k).cur = some b → x.attempt = some k → y.slot k = { cur := some b, nxt := some c })))
  ∧ (∀ (s : State) (c : Instr) (l : LineId) (k : FrameKind) (h : RxHeader) (p : List Byte) (f : FanId),
    s.life = .run → bodyOf c = some (l, k, h, p) → bodyCheck s.own s.cfg.n k h p = none →
    (s.line l).state = .quiet ∨ (s.line l).state = .down ∧ (s.line l).probeOk = true →
    s.sq.own ≠ .none → s.sq.ownFan = some f →
    Yields c s fun t => ∀ m, (s.line m).state ≠ .down ∨ m = l →
      (∃ y, (t.line m).claim.newest = some y ∧ s.liu.frames ≤ y.id)
      ∧ (t.sq.own = s.sq.own → t.sq.ownNumber = s.sq.ownNumber →
          t.sq.resendDue = some (s.now + sec 5)
          ∧ (t.line m).claim.newest.map Copy.payload
              = some (encodeClaim ⟨s.cfg.group, f.val + 1, s.sq.ownNumber, s.sq.own.frameState⟩)))
  ∧ ∀ s : State, s.life = .run →
    (isDue s.now s.liu.reportDue = true → Yields .reportTimerExpiry s fun t =>
      (∀ l, (s.line l).state ≠ .down →
        (t.line l).report.newest.map Copy.payload = some (encodeReport (t.entry t.own).report))
      ∧ t.OwnEntryTold (t.entry t.own).report
      ∧ t.liu.reportDue = some (s.now + reportPeriod t.inc.state) ∧ Ends s t)
    ∧ (∀ h, isDue s.now s.inc.declarerDue = true → s.inc.held = some h → h.id.station = s.own →
      Yields .declarerTimerExpiry s fun t =>
        (∀ l, (s.line l).state ≠ .down →
          (t.line l).incident.newest.map Copy.payload = some (encodeIncident h true s.inc.lead s.inc.leadVc s.inc.state))
        ∧ t.inc.declarerDue = some (s.now + ms 2000) ∧ t.inc.bare = s.inc.bare ∧ t.ord = s.ord ∧ Steady s t)
    ∧ (∀ f, isDue s.now s.sq.resendDue = true → s.sq.own ≠ .none → s.sq.ownFan = some f →
      Yields .resendTimerExpiry s fun t =>
        (t.sq.own = s.sq.own → t.sq.ownNumber = s.sq.ownNumber →
          t.sq.resendDue = some (s.now + sec 5)
          ∧ ∀ l, (s.line l).state ≠ .down → (t.line l).claim.newest.map Copy.payload
              = some (encodeClaim ⟨s.cfg.group, f.val + 1, s.sq.ownNumber, s.sq.own.frameState⟩))
        ∧ (∀ l, (s.line l).state ≠ .down → ∃ c, (t.line l).claim.newest = some c ∧ s.liu.frames ≤ c.id)
        ∧ Ends s t)

/-! ## Reception -/

/-- The checks of an ended body, in order, and what a body that fails one does: it is counted and nothing else. Outside
LISTEN and RUN no body is taken. A kept body that is not whole (it ended at a stop cell read 0, ran past 36 bytes, or
has the wrong length or kind) fails the length check. Kinds with their codes, payload bytes and valid origins (R21); the
counter of each check (R30); the CRC-16 (R174): initial FFFFh, each byte shifted in most significant bit first,
polynomial 1021h, 29B1h over 31h to 39h. The line's idle time then counts from the body's last cell (the model's choice:
log 11). -/
def Obligations.FailedBodiesAreOnlyCounted : Prop :=
  (∀ k : FrameKind, (k.code, k.payloadBytes) = match k with
    | .sectionReport => (0x1A, 30)
    | .incident => (0x2B, 18)
    | .startClaim => (0x3C, 4)
    | .order => (0x4D, 9))
  ∧ (∀ (k : FrameKind) (n o : Nat), k.originOk n o = true ↔ match k with
    | .sectionReport | .startClaim => 1 ≤ o ∧ o ≤ n
    | .incident => (1 ≤ o ∧ o ≤ n) ∨ (97 ≤ o ∧ o ≤ 100)
    | .order => 97 ≤ o ∧ o ≤ 100)
  ∧ (∀ x : Line, x.countBad .length = { x with length := satInc x.length }
    ∧ x.countBad .crc = { x with crc := satInc x.crc } ∧ x.countBad .origin = { x with origin := satInc x.origin })
  ∧ (let shift (c : Nat) (bit : Bool) : Nat := (2 * c) % 65536 ^^^ (if c.testBit 15 = bit then 0 else 0x1021)
    crc16 [] = 0xFFFF ∧ crc16 [0x31, 0x32, 0x33, 0x34, 0x35, 0x36, 0x37, 0x38, 0x39] = 0x29B1
    ∧ ∀ (l : List Byte) (b : Byte), crc16 (l ++ [b]) = [7, 6, 5, 4, 3, 2, 1, 0].foldl
      (fun c i => shift c (b.getLsbD i)) (crc16 l))
  ∧ (∀ (own n : Nat) (k : FrameKind) (h : RxHeader) (p : List Byte), bodyCheck own n k h p =
    if p.length ≠ k.payloadBytes then some .length
    else if crc16 (byteOf k.code :: byteOf h.origin :: h.seq :: h.flags :: p) ≠ h.check then some .crc
    else if h.origin = own ∨ k.originOk n h.origin = false then some .origin
    else none)
  ∧ (∀ (s : State) (c : Instr) (l : LineId) (k : FrameKind) (h : RxHeader) (p : List Byte),
    bodyOf c = some (l, k, h, p) →
    (s.active = false → exec c s = .next s)
    ∧ (s.active = true → ∀ e, bodyCheck s.own s.cfg.n k h p = some e →
        exec c s = .next (s.modLine l fun x => { x.countBad e with idleSince := s.now - 80 })))
  ∧ ∀ (s : State) (l : LineId) (body : List Byte) (cut : Bool), s.active = true → cut = true ∨ splitBody body = none →
    Yields (.discardedBody l body cut) s fun t =>
      (t.line l).length = satInc (s.line l).length
      ∧ t = s.modLine l fun x => { x with length := satInc x.length, idleSince := (t.line l).idleSince }

/-- Every valid peer frame, accepted, duplicate or stale, restarts the quiet watch of its line, makes a QUIET line UP,
and a DOWN one when the probe outcome is set (R27, R29). How a frame is judged (R31; ages in whole ms, the model's
choice: log 10). An accepted frame of any kind sets its origin's record, the sequence and the time, in its section's
entry or in the gateway table (R31, R32, R41, R50), and the heard-on time of its section on its line (R42): of no other
origin, and a frame other than a report leaves the rest of the entry (R37), one other than an order the last executed
order. A duplicate or stale frame is delivered to no block and is not counted as accepted; a duplicate sets the heard-on
time of its section. -/
def Obligations.DuplicatesAndStaleFramesAreNotDelivered : Prop :=
  (∀ (now : Nat) (q : BitVec 8), judge now none q = .accepted
    ∧ ∀ r : OriginRec, judge now (some r) q =
      if r.time + ms 2001 ≤ now then .accepted
      else if 1 ≤ (q - r.seq).toNat ∧ (q - r.seq).toNat ≤ 127 then .accepted
      else if q = r.seq then .duplicate else .stale)
  ∧ (∀ (s : State) (c : Instr) (l : LineId) (k : FrameKind) (h : RxHeader) (p : List Byte), s.active = true →
    bodyOf c = some (l, k, h, p) → bodyCheck s.own s.cfg.n k h p = none →
    Yields c s fun t =>
      let x := s.line l
      let y := t.line l
      let up : Prop := y.state = .up ∧ y.drops = 0 ∧ y.probeDue = none
      y.quietFrom = s.now ∧ y.attempt = x.attempt ∧ y.probeOk = x.probeOk
      ∧ y.accepted = (if judge s.now (s.originRec h.origin) h.seq = .accepted then satInc x.accepted else x.accepted)
      ∧ (x.state = .up → y.state = .up ∧ y.drops = x.drops ∧ y.probeDue = x.probeDue)
      ∧ (x.state = .quiet → up)
      ∧ (x.state = .down → x.probeOk = true → up)
      ∧ (x.state = .down → x.probeOk = false → y.state = .down ∧ y.drops = x.drops ∧ y.probeDue = x.probeDue)
      ∧ ∀ m, m ≠ l → (t.line m).bare = (s.line m).bare)
  ∧ (∀ (s : State) (c : Instr) (l : LineId) (k : FrameKind) (o : Nat) (q : BitVec 8) (p : List Byte), s.Placed →
    Delivered s c l k o q p →
    Yields c s fun t =>
      (97 ≤ o → o ≤ 100 → (t.gateway o).origin = some ⟨q, s.now⟩
        ∧ (k ≠ .order → (t.gateway o).executed = (s.gateway o).executed))
      ∧ (isSection s.cfg.n o = true →
        (t.entry o).origin = some ⟨q, s.now⟩
        ∧ ((t.entry o).heard1, (t.entry o).heard2) = (match l with
            | .l1 => (some s.now, (s.entry o).heard2)
            | .l2 => ((s.entry o).heard1, some s.now))
        ∧ (k ≠ .sectionReport → { s.entry o with
            origin := (t.entry o).origin, heard1 := (t.entry o).heard1, heard2 := (t.entry o).heard2 } = t.entry o))
      ∧ (∀ g, 97 ≤ g → g ≤ 100 → g ≠ o → t.gateway g = s.gateway g)
      ∧ (∀ i, isSection s.cfg.n i = true → i ≠ s.own → i ≠ o → t.entry i = s.entry i)
      ∧ (t.entry s.own).origin = (s.entry s.own).origin ∧ (t.entry s.own).heard1 = (s.entry s.own).heard1
      ∧ (t.entry s.own).heard2 = (s.entry s.own).heard2)
  ∧ ∀ (s : State) (c : Instr) (l : LineId) (k : FrameKind) (h : RxHeader) (p : List Byte), s.active = true → s.Placed →
    bodyOf c = some (l, k, h, p) → bodyCheck s.own s.cfg.n k h p = none →
    judge s.now (s.originRec h.origin) h.seq ≠ .accepted →
    Yields c s fun t =>
      (t.line l).accepted = (s.line l).accepted ∧ (t.line l).quietFrom = s.now
      ∧ (t.line l).state = (match (s.line l).state with
          | .up => .up
          | .quiet => .up
          | .down => if (s.line l).probeOk then .up else .down)
      ∧ t.inc.bare = s.inc.bare ∧ t.ord = s.ord ∧ Steady s t ∧ t.svt.gateways = s.svt.gateways
      ∧ t.svt.rejected = s.svt.rejected ∧ t.sq.rejected = s.sq.rejected
      ∧ peersOf s.own t.sq.list = peersOf s.own s.sq.list
      ∧ ∀ i, isSection s.cfg.n i = true → i ≠ s.own →
        (t.entry i).report = (s.entry i).report ∧ (t.entry i).state = (s.entry i).state
        ∧ (t.entry i).origin = (s.entry i).origin ∧ (t.entry i).writtenAt = (s.entry i).writtenAt
        ∧ ((t.entry i).heard1, (t.entry i).heard2) =
          (if i = h.origin ∧ judge s.now (s.originRec h.origin) h.seq = .duplicate then
            (match l with
              | .l1 => (some s.now, (s.entry i).heard2)
              | .l2 => ((s.entry i).heard1, some s.now))
          else ((s.entry i).heard1, (s.entry i).heard2))

/-- A delivered SECTION_REPORT is written into its section's entry, FRESH with age 0, and into no other entry; one that
fails the content check (R39) only advances the rejected count. A view change by one of R48's two conditions has the
lead re-evaluated (R85; of a change of tag-fresh alone nothing is said: log 54); a node that ceases to be lead keeps its
demand part (R87). The payload bytes stay for the peer's record (log 21). -/
def Obligations.SectionReportsAreWrittenOrRejected : Prop :=
  (∀ p r, parseReport p = some r ↔ ReportReads p r)
  ∧ ∀ (s : State) (c : Instr) (l : LineId) (k : Nat) (q : BitVec 8) (p : List Byte), s.Placed →
    Delivered s c l .sectionReport k q p →
    (∀ r, parseReport p = some r → Yields c s fun t =>
      (t.entry k).report = r ∧ (t.entry k).state = .fresh ∧ (t.entry k).writtenAt = s.now
      ∧ (t.entry k).payload = p.take 28 ∧ (t.entry k).tagMatch = (s.running.map Running.tag == some r.tag)
      ∧ (t.entry k).origin = some ⟨q, s.now⟩
      ∧ (match l with
          | .l1 => (t.entry k).heard1 = some s.now ∧ (t.entry k).heard2 = (s.entry k).heard2
          | .l2 => (t.entry k).heard2 = some s.now ∧ (t.entry k).heard1 = (s.entry k).heard1)
      ∧ (∀ i, isSection s.cfg.n i = true → i ≠ s.own → i ≠ k → t.entry i = s.entry i)
      ∧ (t.line l).accepted = satInc (s.line l).accepted ∧ t.svt.rejected = s.svt.rejected
      ∧ (ViewChanges s t k → LeadJudged s t ∧ (s.inc.lead = true → t.inc.lead = false → DemandStands s t))
      ∧ (t.inc.held.map fun h => (h.id, h.severity, h.triple, h.locus, h.pending))
          = (s.inc.held.map fun h => (h.id, h.severity, h.triple, h.locus, h.pending))
      ∧ t.ord = s.ord ∧ Steady s t)
    ∧ (parseReport p = none → Yields c s fun t =>
      t.svt.rejected = satInc s.svt.rejected
      ∧ (∀ i, isSection s.cfg.n i = true → i ≠ s.own →
          (t.entry i).report = (s.entry i).report ∧ (t.entry i).state = (s.entry i).state
          ∧ (t.entry i).writtenAt = (s.entry i).writtenAt)
      ∧ t.inc.bare = s.inc.bare ∧ t.ord = s.ord ∧ Steady s t)

/-- A peer entry turns STALE after 2500 ms and LOST after 6000 ms, and keeps its contents. Where the section was
countable its STALE is a view change (R48), and the lead is re-evaluated (R85, R87). -/
def Obligations.EntriesAge : Prop :=
  ∀ (s : State) (k : Nat), s.active = true → s.Placed → isSection s.cfg.n k = true → k ≠ s.own →
    ∀ next, ((s.entry k).state = .fresh ∧ (s.entry k).writtenAt + ms 2501 ≤ s.now ∧ next = EntryState.stale
      ∨ (s.entry k).state = .stale ∧ (s.entry k).writtenAt + ms 6001 ≤ s.now ∧ next = EntryState.lost) →
    Yields (.entryAgeExpiry k) s fun t =>
      t.entry k = { s.entry k with state := next }
      ∧ (s.countable k = true → t.countable k = false ∧ LeadJudged s t
        ∧ (s.inc.lead = true → t.inc.lead = false → DemandStands s t))
      ∧ (∀ i, isSection s.cfg.n i = true → i ≠ s.own → i ≠ k → t.entry i = s.entry i)
      ∧ (t.inc.held.map fun h => (h.id, h.severity, h.triple, h.locus, h.pending))
          = (s.inc.held.map fun h => (h.id, h.severity, h.triple, h.locus, h.pending))
      ∧ t.svt.gateways = s.svt.gateways ∧ t.ord = s.ord ∧ Steady s t

/-! ## The incident -/

/-- Which of two records outranks the other (R72). -/
def Obligations.OutrankingIsBySeverityStationNumber : Prop :=
  ∀ (sevX sevY : Nat) (x y : Identity), x ≠ y →
    (outranks sevX x sevY y = true ↔
      sevY < sevX ∨ (sevX = sevY ∧ x.station < y.station)
      ∨ (sevX = sevY ∧ x.station = y.station ∧ 1 ≤ (x.number - y.number).toNat ∧ (x.number - y.number).toNat ≤ 127))
    ∧ (sevX = sevY → x.station = y.station → (x.number - y.number).toNat = 128 →
        outranks sevX x sevY y = false ∧ outranks sevY y sevX x = false)

/-- When an arriving triple wins against the newest known one, and that one that does not win changes nothing (R76). -/
def Obligations.WinningTripleIsNewerLowerOrTowardB : Prop :=
  (∀ a n : Triple, wins a n = true ↔
    (1 ≤ (a.version - n.version).toNat ∧ (a.version - n.version).toNat ≤ 127)
    ∨ (a.version = n.version ∧ a ≠ n ∧ a.source < n.source)
    ∨ (a.version = n.version ∧ a.source = n.source ∧ a.dir ≠ n.dir ∧ a.dir = .towardB))
  ∧ (∀ h : Held, h.newest = match h.pending with
      | some u => u.triple
      | none => h.triple)
  ∧ ∀ (s : State) (h : Held) (a : Triple), s.inc.held = some h →
    (wins a h.newest = false → s.competeTriple a = s) ∧ (wins a h.newest = true → s.competeTriple a = s.takeTriple h a)

/-- A delivered INCIDENT frame: one that fails its content check (R71) is counted; a retired identity and a record that
does not outrank the held one are ignored; else the record is adopted, or replaces the held one, a vent run ends, and
the lead is re-evaluated (R85). The record has no demand part (R74) but for that of a node that becomes lead with it
(R86), and the node is DECLARED, or CONTROLLED as lead. The frame's demand part, when present, is judged in the same
event (R73, R89): from a sender upstream of the span, at a lead from one nearer the span than itself, it is accepted,
the node is CONTROLLED and not lead; else it is counted as refused, and the record, the lead and the state stay as they
were formed. -/
def Obligations.IncidentFramesAreAdoptedOrIgnored : Prop :=
  (∀ n o p m, parseIncident n o p = some m ↔ IncidentReads n o p m)
  ∧ ∀ (s : State) (c : Instr) (l : LineId) (o : Nat) (q : BitVec 8) (p : List Byte), Delivered s c l .incident o q p →
    (parseIncident s.cfg.n o p = none → Yields c s fun t =>
      t.inc.bare = { s.inc.bare with rejected := satInc s.inc.rejected } ∧ t.ord = s.ord ∧ Steady s t)
    ∧ ∀ m, parseIncident s.cfg.n o p = some m →
      (m.id ∈ s.inc.retired → Yields c s fun t => t.inc.bare = s.inc.bare ∧ t.ord = s.ord ∧ Steady s t)
      ∧ (∀ h, s.inc.held = some h → h.id ≠ m.id → outranks m.severity m.id h.severity h.id = false →
          Yields c s fun t => t.inc.bare = s.inc.bare ∧ t.ord = s.ord ∧ Steady s t)
      ∧ (m.id ∉ s.inc.retired →
          (∀ h, s.inc.held = some h → h.id ≠ m.id ∧ outranks m.severity m.id h.severity h.id = true) →
          Yields c s fun t =>
            let k : Held :=
              { id := m.id, severity := m.severity, triple := m.triple, locus := m.locus, demand := none, pending := none }
            let u : State := ({ s with inc := { s.inc with held := some k } } : State).refreshOwn
            let leads : Prop := u.leadHolds = true
            let accepted : Prop := o ∈ k.upstream s.cfg ∧ (leads → k.Nearer o s.own)
            let own : Demand := { t := u.demandInUse k, source := some ⟨s.own, s.now, 0⟩, ePrev := none }
            (∀ d b, m.demand = some (d, b) → accepted →
              t.inc.held = some { k with demand := some { t := d, source := some ⟨o, s.now, b⟩, ePrev := none } }
              ∧ t.inc.lead = false ∧ t.inc.state = .controlled ∧ t.inc.controlDue = none)
            ∧ (m.demand = none ∨ ¬ accepted →
              (leads → t.inc.held = some { k with demand := some own } ∧ t.inc.lead = true
                ∧ t.inc.state = .controlled ∧ t.inc.controlDue = some (s.now + ms 2000))
              ∧ (¬ leads → t.inc.held = some k ∧ t.inc.lead = false ∧ t.inc.state = .declared
                ∧ t.inc.controlDue = none))
            ∧ (m.demand ≠ none → ¬ accepted → t.inc.refused = satInc s.inc.refused)
            ∧ (m.demand = none ∨ accepted → t.inc.refused = s.inc.refused)
            ∧ t.inc.guardUntil = none ∧ t.inc.alertClear = none ∧ LeadJudged s t
            ∧ (m.id.station ≠ s.own → t.inc.declarerDue = none)
            ∧ t.ord = { s.ord with vent := none }
            ∧ t.inc.smoke = s.inc.smoke ∧ t.inc.heat = s.inc.heat ∧ t.inc.call = s.inc.call
            ∧ t.inc.operator = s.inc.operator ∧ t.inc.retired = s.inc.retired ∧ Steady s t)

/-- A delivered INCIDENT frame of the held identity: the larger severity; the locus stays; the triple is taken when it
wins, at once or after the guard; a demand is then judged against the record as the merge leaves it (R89), and accepted
or counted as refused. The guard timer's length (R77). An application or an accepted demand has the lead re-evaluated
(R85), and the declarer hands its INCIDENT frame over at an application (R79). A source is old when more than 6000 whole
ms have passed (the model's choice: log 10). -/
def Obligations.IncidentFramesOfTheHeldIdentityMerge : Prop :=
  (∀ (s : State) (h : Held) (o : Nat) (m : IncidentMsg), s.demandOk h o m = true ↔
    m.triple.dir = h.triple.dir ∧ m.triple.version = h.triple.version ∧ o ∈ h.upstream s.cfg
    ∧ ∀ d x, h.demand = some d → d.source = some x →
      x.time + ms 6001 ≤ s.now ∨ o = x.station ∨ h.Nearer o x.station)
  ∧ (∀ s : State, s.guardEnd = if s.cfg.guard = 0 then none else some (s.now + sec s.cfg.guard))
  ∧ ∀ (s : State) (c : Instr) (l : LineId) (o : Nat) (q : BitVec 8) (p : List Byte) (m : IncidentMsg) (h : Held),
    Delivered s c l .incident o q p → parseIncident s.cfg.n o p = some m → m.id ∉ s.inc.retired →
    s.inc.held = some h → h.id = m.id →
    Yields c s fun t => ∃ k, t.inc.held = some k ∧ k.id = h.id ∧ k.locus = h.locus
      ∧ k.severity = max h.severity m.severity
      ∧ (wins m.triple h.newest = false → k.triple = h.triple ∧ k.pending = h.pending
          ∧ ∀ d b, m.demand = some (d, b) →
            (s.demandOk h o m = true → k.demand.map Demand.t = some d ∧ t.inc.state = .controlled)
            ∧ (s.demandOk h o m = false → t.inc.refused = satInc s.inc.refused ∧ k.demand = h.demand))
      ∧ (wins m.triple h.newest = true → m.triple.dir = h.triple.dir → k.triple = m.triple ∧ k.pending = none)
      ∧ (wins m.triple h.newest = true → m.triple.dir ≠ h.triple.dir → s.inc.guardUntil = none →
          k.triple = m.triple ∧ k.pending = none ∧ t.inc.guardUntil = s.guardEnd)
      ∧ (wins m.triple h.newest = true → m.triple.dir ≠ h.triple.dir → s.inc.guardUntil ≠ none →
          k.triple = h.triple ∧ k.pending = some ⟨m.triple, s.now⟩)
      ∧ (∀ d b, m.demand = some (d, b) → wins m.triple h.newest = true →
          (m.triple.dir ≠ h.triple.dir → s.inc.guardUntil ≠ none →
            t.inc.refused = satInc s.inc.refused ∧ k.demand = h.demand)
          ∧ (m.triple.dir = h.triple.dir ∨ s.inc.guardUntil = none →
            ∃ j, (s.merge h m).inc.held = some j ∧ j.triple = m.triple
              ∧ (∀ x, h.demand = some x → j.demand.map Demand.t = some x.t)
              ∧ ((s.merge h m).inc.lead = false →
                (j.demand.map fun x => (x.t, x.source)) = h.demand.map fun x =>
                  (x.t, if m.triple.dir = h.triple.dir then x.source else none))
              ∧ ((s.merge h m).inc.lead = true → s.inc.lead = false ∨ m.triple.dir ≠ h.triple.dir →
                j.demand.map Demand.source = some (some ⟨s.own, s.now, 0⟩))
              ∧ ((s.merge h m).inc.lead = true → s.inc.lead = true → m.triple.dir = h.triple.dir → j.demand = h.demand)
              ∧ (s.demandOk j o m = true → k.demand.map Demand.t = some d ∧ t.inc.state = .controlled)
              ∧ (s.demandOk j o m = false → t.inc.refused = satInc s.inc.refused ∧ k.demand = j.demand)))
      ∧ (k.triple ≠ h.triple ∨ (m.demand ≠ none ∧ t.inc.refused = s.inc.refused ∧ s.inc.refused ≠ BitVec.allOnes 16) →
          LeadJudged s t)
      ∧ (k.triple ≠ h.triple → s.life = .run → h.id.station = s.own → (m.demand = none → DeclarerSends s t k)
        ∧ t.inc.declarerDue = some (s.now + ms 2000)
        ∧ ∀ j, (s.line j).state ≠ .down → ∃ y, (t.line j).incident.newest = some y ∧ s.liu.frames ≤ y.id)
      ∧ t.inc.retired = s.inc.retired ∧ t.ord = s.ord ∧ Steady s t

/-- The ALERT clear timer's expiry makes ALERT QUIET; a vent run's end of time ends it. A peer's entry of the start
queue not heard for 12,000 ms is removed and counted, and where the list then makes the grant due, the claim's holder
starts (R142, R146). -/
def Obligations.AlertVentRunAndClaimsExpire : Prop :=
  (∀ s : State, s.active = true →
    (isDue s.now s.inc.alertClear = true → Yields .alertClearExpiry s fun t =>
      t.inc.bare = { s.inc.bare with
        alertClear := none, state := if s.inc.state = .alert then .quiet else s.inc.state }
      ∧ t.ord = s.ord ∧ Steady s t)
    ∧ (∀ v, s.ord.vent = some v → v.ends ≤ s.now → Yields .ventRunExpiry s fun t =>
      t.ord = { s.ord with vent := none } ∧ t.inc.bare = s.inc.bare ∧ Steady s t))
  ∧ ∀ (s : State) (k : Nat) (e : QueueEntry), s.active = true → k ≠ s.own → e ∈ s.sq.list → e.station = k →
    e.heardAt + ms 12000 ≤ s.now →
    Yields (.queueEntryExpiry k) s fun t =>
      peersOf s.own t.sq.list = peersOf s.own (s.sq.list.filter fun x => x.station != k)
      ∧ t.sq.expired = satInc s.sq.expired ∧ t.sq.dropped = s.sq.dropped ∧ t.sq.rejected = s.sq.rejected
      ∧ GrantJudged s t (s.sq.list.filter fun x => x.station != k)
      ∧ t.inc.bare = s.inc.bare ∧ t.ord = s.ord ∧ Steady s t

/-- The guard timer's expiry applies a pending update as a direction change and starts the guard again, of 0..300 s,
never running at 0 (R77); the declarer hands its INCIDENT frame over (R79) and the lead is re-evaluated (R85). With none
pending it does nothing further. -/
def Obligations.GuardExpiryAppliesThePendingUpdate : Prop :=
  ∀ s : State, s.active = true → isDue s.now s.inc.guardUntil = true →
    (∀ h u, s.inc.held = some h → h.pending = some u → Yields .guardTimerExpiry s fun t =>
      ∃ k, t.inc.held = some k ∧ k.id = h.id ∧ k.severity = h.severity ∧ k.locus = h.locus ∧ k.triple = u.triple
        ∧ k.pending = none ∧ (∀ d, h.demand = some d → k.demand.map Demand.t = some d.t)
        ∧ t.inc.guardUntil = (if s.cfg.guard = 0 then none else some (s.now + sec s.cfg.guard))
        ∧ (s.life = .run → h.id.station = s.own → DeclarerSends s t k) ∧ LeadJudged s t
        ∧ (t.inc.lead = false → s.inc.state = .controlled → t.inc.state = .holding)
        ∧ t.ord = s.ord ∧ Steady s t)
    ∧ ((∀ h, s.inc.held = some h → h.pending = none) → Yields .guardTimerExpiry s fun t =>
      t.inc.bare = { s.inc.bare with guardUntil := none } ∧ t.ord = s.ord ∧ Steady s t)

/-- A control interval expiry of the lead: with a control velocity, a demand step by the rule and a demand sequence one
higher, from 255 on with 0 (the model's choice: log 50); without, T and sequence as they were; either way the time of
acceptance, the timer and the frame. The frames until the next expiry repeat this control velocity (the model's choice:
log 51). It is the median of the signed velocities of the first four countable sections with velocity, from the lead
itself toward the upstream portal. -/
def Obligations.ControlIntervalMakesADemandStep : Prop :=
  (∀ (s : State) (h : Held),
    ∀ before after, h.upstream s.cfg = before ++ s.own :: after → s.own ∉ before →
      IsMedian ((((s.own :: after).filter s.countableWithVelocity).take 4).map fun k =>
        let v := (s.entry k).report.velocity.getD 0
        match h.triple.dir with
        | .towardB => v
        | .towardA => -v) (s.controlVelocity h))
  ∧ ∀ (s : State) (h : Held) (d : Demand), s.life = .run → s.inc.lead = true → isDue s.now s.inc.controlDue = true →
    s.inc.held = some h → h.demand = some d →
    Yields .controlIntervalExpiry s fun t => ∃ k, t.inc.held = some k ∧ { k with demand := none } = { h with demand := none }
      ∧ t.inc.leadVc = s.refreshOwn.controlVelocity h ∧ t.inc.controlDue = some (s.now + ms 2000)
      ∧ (∀ v, s.refreshOwn.controlVelocity h = some v → ∃ delta : Int,
          let e := max (-1000) (min 1000 ((s.cfg.vt : Int) - v))
          NearestAway (s.cfg.kp * (e - d.ePrev.getD e) + s.cfg.ki * e) 16 delta
          ∧ k.demand = some
            ⟨(max 0 (min (s.refreshOwn.tcap h : Int) (d.t + delta))).toNat,
              some ⟨s.own, s.now, (match d.source with
                | some x => x.seq
                | none => 0) + 1⟩, some e⟩)
      ∧ (s.refreshOwn.controlVelocity h = none → k.demand = some
          { d with source := some ⟨s.own, s.now, match d.source with
            | some x => x.seq
            | none => 0⟩ })
      ∧ (∀ l, (s.line l).state ≠ .down → (t.line l).incident.newest.map Copy.payload
          = some (encodeIncident k (h.id.station == s.own) true t.inc.leadVc s.inc.state))
      ∧ t.ord = s.ord ∧ Steady s t

/-- The source timer's expiry: a node for which the lead's condition holds is lead and CONTROLLED; another in CONTROLLED
enters HOLDING with T and the source as they were; one that ceases to be lead stops its control interval timer (R87). A
node hands its frame over as it becomes lead, with its demand and the lead role (R86), without a control velocity (the
model's choice: log 51). The lead's condition (R84, R85): RUN, the node the first countable section with velocity in the
upstream order, and no source nearer the span accepted within 6000 ms (in whole ms, the model's choice: log 10). -/
def Obligations.SourceExpiryLeadsOrHolds : Prop :=
  (∀ s : State, s.leadHolds = true ↔ s.life = .run ∧ ∃ h, s.inc.held = some h
    ∧ (∃ before after, h.upstream s.cfg = before ++ s.own :: after ∧ s.countableWithVelocity s.own = true
      ∧ ∀ k ∈ before, s.countableWithVelocity k = false)
    ∧ ∀ d x, h.demand = some d → d.source = some x → h.Nearer x.station s.own → x.time + ms 6001 ≤ s.now)
  ∧ (∀ (s : State) (h : Held), s.life = .run → s.inc.held = some h → s.inc.lead = false →
    s.refreshOwn.leadHolds = true →
    let t := s.reevalLead
    let k : Held := { h with demand := some ⟨s.refreshOwn.demandInUse h, some ⟨s.own, s.now, 0⟩, none⟩ }
    t.inc.held = some k ∧ t.inc.lead = true ∧ t.inc.state = .controlled
    ∧ ∀ l, (s.line l).state ≠ .down → (t.line l).incident.newest.map Copy.payload
        = some (encodeIncident k (h.id.station == s.own) true none .controlled))
  ∧ ∀ (s : State) (h : Held), s.active = true → isDue s.now s.inc.sourceUntil = true → s.inc.held = some h →
    Yields .sourceTimerExpiry s fun t =>
      (s.refreshOwn.leadHolds = false → t.inc.lead = false
        ∧ (s.inc.state = .controlled → t.inc.state = .holding)
        ∧ (s.inc.lead = true → t.inc.controlDue = none) ∧ t.inc.held.map Held.id = some h.id ∧ DemandStands s t)
      ∧ (s.refreshOwn.leadHolds = true → s.inc.lead = false → t.inc.lead = true ∧ t.inc.state = .controlled
        ∧ t.inc.held = some { h with demand := some ⟨s.refreshOwn.demandInUse h, some ⟨s.own, s.now, 0⟩, none⟩ }
        ∧ t.inc.controlDue = some (s.now + ms 2000))
      ∧ (s.refreshOwn.leadHolds = true → s.inc.lead = true → t.inc.held = s.inc.held ∧ t.inc.lead = true)
      ∧ t.ord = s.ord ∧ Steady s t

/-- The exclusion span, the upstream order and the rank order of a held record (R102): the sections outside the span,
each once. -/
def Obligations.SpanAndOrdersFollowLocusAndDirection : Prop :=
  ∀ (c : Settings) (h : Held), 1 ≤ h.locus → h.locus ≤ c.n →
    (h.triple.dir = .towardB → h.lo c = max 1 (h.locus - c.u) ∧ h.hi c = min c.n (h.locus + c.d)
      ∧ h.upstream c = (List.range' 1 (h.lo c - 1)).reverse
      ∧ h.rank c = List.range' 1 (h.lo c - 1) ++ (List.range' (h.hi c + 1) (c.n - h.hi c)).reverse)
    ∧ (h.triple.dir = .towardA → h.lo c = max 1 (h.locus - c.d) ∧ h.hi c = min c.n (h.locus + c.u)
      ∧ h.upstream c = List.range' (h.hi c + 1) (c.n - h.hi c)
      ∧ h.rank c = (List.range' (h.hi c + 1) (c.n - h.hi c)).reverse ++ List.range' 1 (h.lo c - 1))
    ∧ h.inSpan c h.locus = true
    ∧ (h.rank c).Nodup
    ∧ ∀ k, k ∈ h.rank c ↔ isSection c.n k = true ∧ h.inSpan c k = false

/-- The fan plan (R105, R106): the fan count from the share, the preference order and the start threshold; the plan
speed the smallest whole percent that gives the share, raised to the minimum speed. What it starts from: countable
sections (R47), own availability (R93, R94), the demand in use and the view capacity (R95 to R97), the own share (R101,
R103), the preference order (R104); and the targets it ends in (R107). It is formed at the events of R108: after each,
the plan in force and the plan targets are those of the record held. Where inside the event the plan is formed, and so
on which fan channels, is the model's choice (log 5): on those that the event found, or, where a contact is active or a
vent run ends, as it has moved them by then; whether a vent run's end has reached the fans before the plan is free
(log 4), and so is where the consumers of an observation stand to one another at a sample expiry (log 3). A view change
is one of R48's two conditions (a change of tag-fresh alone: log 54). A_before is stated of a node that has a place in
the rank order (log 24). -/
def Obligations.FanPlanCountAndSpeed : Prop :=
  (∀ (s : State) (h : Held),
    let p := s.planOf h
    let d := h.triple.dir
    let avail (k : Nat) : Nat := match d with
      | .towardB => (s.entry k).report.availB
      | .towardA => (s.entry k).report.availA
    (∀ k, s.countable k = true ↔ (s.entry k).state = .fresh ∧ (s.entry k).tagMatch = true
      ∧ (((s.entry k).report.summary = none ∧ s.inc.held = none)
        ∨ ∃ x y, (s.entry k).report.summary = some x ∧ s.inc.held = some y ∧ x.id = y.id
          ∧ x.version = y.triple.version))
    ∧ (∀ k, s.countableWithVelocity k = true ↔ s.countable k = true ∧ (s.entry k).report.velocity ≠ none)
    ∧ (∀ f, s.isCounted f = true ↔ s.installed f = true ∧ (s.fan f).state ≠ .fault ∧ (s.fan f).state ≠ .lockedOut
        ∧ s.ord.inhibit = false)
    ∧ (∀ f, s.derated f .towardB = s.cfg.fans[f].thrust * 293 / (273 + s.tal.derating)
        ∧ s.derated f .towardA = s.cfg.fans[f].thrust * s.cfg.fans[f].reverse / 100 * 293 / (273 + s.tal.derating))
    ∧ (∀ e, s.availability e = (allFans.map fun f => if s.isCounted f then s.derated f e else 0).sum)
    ∧ s.formAvail.tal.avail = some (s.availability .towardB, s.availability .towardA)
    ∧ p.dir = d ∧ p.derating = s.tal.derating ∧ p.basisHeld = h.demand.isSome
    ∧ p.tcap = (s.cfg.sections.map fun k => if s.countable k ∧ ¬ h.inSpan s.cfg k then avail k else 0).sum
    ∧ (∀ x, h.demand = some x → p.demand = x.t)
    ∧ (h.demand = none → p.demand = p.tcap * s.cfg.initialDemand / 100)
    ∧ (∀ k, s.eligible h k = true ↔ s.countable k = true ∧ h.inSpan s.cfg k = false ∧ 0 < avail k)
    ∧ p.eligible = (s.cfg.sections.filter (s.eligible h)).length
    ∧ (∀ before after, h.rank s.cfg = before ++ s.own :: after → s.own ∉ before →
        p.before = ((before.filter (s.eligible h)).map avail).sum)
    ∧ p.share = (if s.eligible h s.own then min (avail s.own) (p.demand - p.before) else 0)
    ∧ (let group (f : FanId) : Nat :=
        let x := s.fan f
        if (x.state = .running ∨ x.state = .starting) ∧ x.cmdDir = d then 1
        else if x.state = .startWait ∧ x.target.dir? = some d then 2
        else if x.state = .off then 3 else 4
      List.Perm (s.preference d) (allFans.filter s.isCounted)
      ∧ (s.preference d).Pairwise fun f g => group f < group g ∨ (group f = group g ∧ f < g))
    ∧ ∀ f : FanId, (s.computePlan h).fch.planTargets[f] = (match p.speed with
        | some v => if f ∈ (s.preference d).take p.k then Target.run d v else Target.off
        | none => Target.off))
  ∧ (∀ (c : Instr) (s : State), s.active = true → s.Placed → planEvent c = true →
    Yields c s fun t => PlanAsked c s t → ∀ h, t.inc.held = some h →
      (∃ x : Fch, (∀ f : FanId, (s.fan f).Settles x.fans[f] ∧ x.fans[f].Settles (t.fan f)) ∧ t.Plans h x)
      ∧ (s.ord.vent = none → (∀ f, s.installed f = true → (s.fanIn f).debounced = false) → t.Plans h s.fch))
  ∧ (∀ s : State, s.active = true → isDue s.now s.fiu.sampleDue = true →
    Yields .sampleTimerExpiry s fun t => ∀ h, t.inc.held = some h →
      ∃ x : Fch, t.Plans h x ∧ (¬ s.ExposureRipe → ∀ f, s.installed f = true →
        (s.fan f).Settles x.fans[f] ∨ Moved s t f x.fans[f]))
  ∧ ∀ (s : State) (h : Held), s.cfg.sMin ≤ 100 →
    let p := s.planOf h
    let fs := (s.preference h.triple.dir).map fun f => s.derated f h.triple.dir
    let least (j : Nat) : Nat := smallest fs j
    (∀ j, 1 ≤ j → j ≤ fs.length → least j ∈ fs.take j ∧ ∀ x ∈ fs.take j, least j ≤ x)
    ∧ p.h = fs.length
    ∧ (p.share = 0 ∨ p.h = 0 → p.k = 0)
    ∧ (∀ f1 rest, fs = f1 :: rest → p.share ≠ 0 →
        let fMin := f1 * s.cfg.sMin ^ 2 / 10000
        let threshold := (fMin + 1) / 2
        (p.share < threshold → p.k = 0)
        ∧ (threshold ≤ p.share → 1 ≤ p.k ∧ p.k ≤ p.h ∧ p.f = some (least p.k)
            ∧ (∀ j, 1 ≤ j → j < p.k → j * least j < p.share)
            ∧ (p.k * least p.k < p.share → p.k = p.h)))
    ∧ (p.k = 0 → p.speed = none)
    ∧ (1 ≤ p.k → ∃ v, p.speed = some (max s.cfg.sMin v) ∧ 1 ≤ v ∧ v ≤ 100
        ∧ (∀ w, 1 ≤ w → w < v → p.k * least p.k * w ^ 2 < p.share * 10000)
        ∧ (p.k * least p.k * v ^ 2 < p.share * 10000 → v = 100)
        ∧ s.cfg.sMin ≤ max s.cfg.sMin v ∧ max s.cfg.sMin v ≤ 100)

/-! ## Orders -/

/-- DECLARE: the operator detector latches and the operator record is held unless it is retired or ranks below the held
one; in every case the order counts as executed. The record formed has the order's direction, or the rule's (R67); the
node enters DECLARED, or CONTROLLED where it leads at once, a vent run ends, the counter is not advanced and no declarer
timer starts (R66). -/
def Obligations.DeclareFormsTheOperatorRecord : Prop :=
  (∀ n p o, parseOrder n p .declare = some o ↔ OrderReads n p .declare o)
  ∧ (∀ (s : State) (k : Nat), s.ByRule k (s.ruleDirection k))
  ∧ ∀ (s : State) (c : Instr) (g : Nat) (m : BitVec 8) (locus : Nat) (dir : Option Direction),
    Ordered s c g m (.declare locus dir) →
    Yields c s fun t => Executed s t g m ∧ Steady s t
      ∧ t.inc.smoke = s.inc.smoke ∧ t.inc.heat = s.inc.heat ∧ t.inc.call = s.inc.call ∧ t.inc.retired = s.inc.retired
      ∧ (t.inc.operator = if (⟨g, m⟩ : Identity) ∈ s.inc.retired ∧ s.inc.held = none then .normal
          else { state := .alarm, latched := true, rearm := false, since := none })
      ∧ ((⟨g, m⟩ : Identity) ∉ s.inc.retired →
          (∀ h, s.inc.held = some h → h.id ≠ ⟨g, m⟩ ∧ outranks 4 ⟨g, m⟩ h.severity h.id = true) →
          ∃ k, t.inc.held = some k ∧ k.id = ⟨g, m⟩ ∧ k.severity = 4 ∧ k.locus = locus ∧ k.pending = none
            ∧ k.triple = (match dir with
                | some d => ⟨d, 0, g⟩
                | none => ⟨s.ruleDirection locus, 0, s.own⟩)
            ∧ (t.inc.state = .declared ∨ t.inc.state = .controlled ∧ t.inc.lead = true) ∧ t.ord.vent = none
            ∧ LeadJudged s t ∧ t.inc.declCounter = s.inc.declCounter ∧ t.inc.declarerDue = none)
      ∧ (∀ h, s.inc.held = some h →
          ((⟨g, m⟩ : Identity) ∈ s.inc.retired ∨ h.id = ⟨g, m⟩ ∨ outranks 4 ⟨g, m⟩ h.severity h.id = false) →
          t.inc.held = some h ∧ t.inc.state = s.inc.state ∧ t.ord.vent = s.ord.vent)
      ∧ (s.inc.held = none → (⟨g, m⟩ : Identity) ∈ s.inc.retired → t.inc.held = none)

/-- FORCE_DIRECTION: refused without the held identity; else executed: nothing new when the direction is the newest
known one, and otherwise a triple one version newer, applied or held pending; an application has the lead re-evaluated
(R85) and the declarer's INCIDENT frame handed over (R79). The guard's length: R77. -/
def Obligations.ForceDirectionRefusesOrTurnsTheRecord : Prop :=
  (∀ n p o, parseOrder n p .forceDirection = some o ↔ OrderReads n p .forceDirection o)
  ∧ ∀ (s : State) (c : Instr) (g : Nat) (m : BitVec 8) (id : Identity) (d : Direction),
    Ordered s c g m (.forceDirection id d) →
    ((∀ h, s.inc.held = some h → h.id ≠ id) → Yields c s fun t =>
      t.ord = { s.ord with refused := satInc s.ord.refused } ∧ (t.gateway g).executed = (s.gateway g).executed
      ∧ t.inc.bare = s.inc.bare ∧ Steady s t)
    ∧ ∀ h, s.inc.held = some h → h.id = id → Yields c s fun t => Executed s t g m ∧ Steady s t
      ∧ t.inc.retired = s.inc.retired
      ∧ (d = h.newest.dir → t.inc.bare = s.inc.bare)
      ∧ (d ≠ h.newest.dir → ∃ k, t.inc.held = some k ∧ k.id = id ∧ k.severity = h.severity ∧ k.locus = h.locus
          ∧ (d = h.triple.dir → k.triple = ⟨d, h.newest.version + 1, g⟩ ∧ k.pending = none)
          ∧ (d ≠ h.triple.dir → s.inc.guardUntil = none →
              k.triple = ⟨d, h.newest.version + 1, g⟩ ∧ k.pending = none
              ∧ t.inc.guardUntil = (if s.cfg.guard = 0 then none else some (s.now + sec s.cfg.guard)))
          ∧ (d = h.triple.dir ∨ s.inc.guardUntil = none →
              LeadJudged s t ∧ (s.life = .run → id.station = s.own → DeclarerSends s t k))
          ∧ (d ≠ h.triple.dir → s.inc.guardUntil ≠ none →
              k.triple = h.triple ∧ k.pending = some ⟨⟨d, h.newest.version + 1, g⟩, s.now⟩))

/-- STAND_DOWN: the identity is retired, the oldest dropping from a full list (R82); of the held record, the record, its
plan and its timers go, the detectors are released (R60) and the fault counts return to 0. -/
def Obligations.StandDownRetiresTheIdentity : Prop :=
  (∀ n p o, parseOrder n p .standDown = some o ↔ OrderReads n p .standDown o)
  ∧ (∀ d : Detector, d.release =
    if d.state = .alarm then { state := .alarm, latched := false, rearm := true, since := none } else d)
  ∧ ∀ (s : State) (c : Instr) (g : Nat) (m : BitVec 8) (id : Identity), Ordered s c g m (.standDown id) →
    Yields c s fun t => Executed s t g m ∧ Steady s t
      ∧ id ∈ t.inc.retired ∧ (id ∈ s.inc.retired → t.inc.retired = s.inc.retired)
      ∧ (id ∉ s.inc.retired →
          (s.inc.retired.length < 8 → t.inc.retired = s.inc.retired ++ [id])
          ∧ (s.inc.retired.length = 8 → t.inc.retired = s.inc.retired.drop 1 ++ [id]))
      ∧ ((∀ h, s.inc.held = some h → h.id ≠ id) →
          t.inc.bare = { s.inc.bare with retired := t.inc.retired } ∧ t.ord.vent = s.ord.vent)
      ∧ ∀ h, s.inc.held = some h → h.id = id →
        t.inc.held = none ∧ t.inc.lead = false ∧ t.tal.plan = none
        ∧ t.inc.guardUntil = none ∧ t.inc.declarerDue = none ∧ t.inc.controlDue = none ∧ t.inc.sourceUntil = none
        ∧ t.inc.smoke = s.inc.smoke.release ∧ t.inc.heat = s.inc.heat.release
        ∧ t.inc.call = .normal ∧ t.inc.operator = .normal
        ∧ t.inc.state = (if t.inc.anyActive then .alert else .quiet)
        ∧ (∀ f : FanId, t.fch.planTargets[f] = Target.off)
        ∧ (s.ord.vent = none → ∀ f, s.installed f = true → (t.fan f).faultCount = 0)

/-- INHIBIT and RELEASE: in range they set and clear own inhibit, and a change asks for its store update. -/
def Obligations.InhibitAndReleaseSetOwnInhibit : Prop :=
  (∀ n p o, parseOrder n p .inhibit = some o ↔ OrderReads n p .inhibit o)
  ∧ (∀ n p o, parseOrder n p .release = some o ↔ OrderReads n p .release o)
  ∧ ∀ (s : State) (c : Instr) (g : Nat) (m : BitVec 8) (first last : Nat) (v : Bool),
    Ordered s c g m (if v then .inhibit first last else .release first last) →
    Yields c s fun t => Executed s t g m ∧ Steady s t ∧ t.inc.bare = s.inc.bare ∧ t.ord.vent = s.ord.vent
      ∧ (first ≤ s.own ∧ s.own ≤ last → t.ord.inhibit = v
          ∧ (s.ord.inhibit ≠ v → Asked t .ownInhibit (if v then 1 else 0)))
      ∧ (¬ (first ≤ s.own ∧ s.own ≤ last) → t.ord.inhibit = s.ord.inhibit)

/-- VENT_RUN in range starts the vent run, or is refused while an incident is held; VENT_STOP in range ends it; out of
range both count as executed and change nothing. -/
def Obligations.VentOrdersStartAndEndTheVentRun : Prop :=
  (∀ n p o, parseOrder n p .ventRun = some o ↔ OrderReads n p .ventRun o)
  ∧ (∀ n p o, parseOrder n p .ventStop = some o ↔ OrderReads n p .ventStop o)
  ∧ ∀ (s : State) (c : Instr) (g : Nat) (m : BitVec 8),
    (∀ first last dir speed duration, Ordered s c g m (.ventRun first last dir speed duration) →
      (first ≤ s.own → s.own ≤ last → s.inc.held = none → Yields c s fun t => Executed s t g m ∧ Steady s t
        ∧ t.ord.vent = some ⟨g, m, first, last, dir, speed, s.now + sec duration⟩
        ∧ t.inc.bare = s.inc.bare ∧ t.ord.inhibit = s.ord.inhibit)
      ∧ (first ≤ s.own → s.own ≤ last → s.inc.held ≠ none → Yields c s fun t => Steady s t
        ∧ t.ord = { s.ord with refused := satInc s.ord.refused } ∧ t.inc.bare = s.inc.bare
        ∧ (t.gateway g).executed = (s.gateway g).executed)
      ∧ (¬ (first ≤ s.own ∧ s.own ≤ last) → Yields c s fun t => Executed s t g m ∧ Steady s t
        ∧ t.ord.vent = s.ord.vent ∧ t.ord.inhibit = s.ord.inhibit ∧ t.inc.bare = s.inc.bare))
    ∧ ∀ first last, Ordered s c g m (.ventStop first last) → Yields c s fun t => Executed s t g m ∧ Steady s t
      ∧ t.ord.vent = (if first ≤ s.own ∧ s.own ≤ last then none else s.ord.vent)
      ∧ t.ord.inhibit = s.ord.inhibit ∧ t.inc.bare = s.inc.bare

/-- An order whose kind is none of the seven, or whose content fails (R152), is refused; an order with its gateway's
last executed number is repeated. Each is counted and nothing is recorded. -/
def Obligations.RefusedAndRepeatedOrdersAreOnlyCounted : Prop :=
  (∀ c k, orderKindOf c = some k ↔ c = match k with
    | .declare => 1
    | .forceDirection => 2
    | .standDown => 3
    | .inhibit => 4
    | .release => 5
    | .ventRun => 6
    | .ventStop => 7)
  ∧ (∀ n p k o, parseOrder n p k = some o ↔ OrderReads n p k o)
  ∧ ∀ (s : State) (c : Instr) (l : LineId) (g : Nat) (q : BitVec 8) (p : List Byte), Delivered s c l .order g q p →
    ((orderKindOf (byteAt p 0) = none ∨ ∃ k, orderKindOf (byteAt p 0) = some k ∧ parseOrder s.cfg.n (p.drop 2) k = none) →
      Yields c s fun t => t.ord = { s.ord with refused := satInc s.ord.refused }
        ∧ (t.gateway g).executed = (s.gateway g).executed ∧ t.inc.bare = s.inc.bare ∧ Steady s t)
    ∧ ∀ k o, orderKindOf (byteAt p 0) = some k → parseOrder s.cfg.n (p.drop 2) k = some o →
      (s.gateway g).executed = some (p.getD 1 0) →
      Yields c s fun t => t.ord = { s.ord with repeated := satInc s.ord.repeated }
        ∧ (t.gateway g).executed = (s.gateway g).executed ∧ t.inc.bare = s.inc.bare ∧ Steady s t

/-! ## The fans -/

/-- The brake limit and the start limit take a fan to FAULT, at the third fault to LOCKED_OUT, with duty 0 and its store
counter and latch asked for. -/
def Obligations.BrakeAndStartLimitsFault : Prop :=
  ∀ (s : State) (f : FanId), s.active = true → s.installed f = true →
    ∀ c cause, ((s.fan f).state = .braking ∧ isDue s.now (s.fan f).brakeUntil = true
        ∧ c = Instr.brakeLimitExpiry f ∧ cause = FaultCause.windmill
      ∨ (s.fan f).state = .starting ∧ isDue s.now (s.fan f).startUntil = true
        ∧ c = Instr.startLimitExpiry f ∧ cause = FaultCause.start) →
    Yields c s fun t =>
      { t.fan f with target := .off } = { (s.fan f).afterFault cause s.now with target := .off }
      ∧ (t.fanIn f).pendingDuty = some 0
      ∧ ((s.fan f).faults ≠ BitVec.allOnes 24 → Asked t (.faultCounter f) ((s.fan f).faults.toNat + 1))
      ∧ (3 ≤ (s.fan f).faultCount + 1 → Asked t (.latch f) 1)
      ∧ (∀ g, g ≠ f → (s.fan g).Settles (t.fan g)) ∧ (∀ g, (t.fan g).minutes = (s.fan g).minutes)
      ∧ t.inc.bare = s.inc.bare ∧ t.ord = s.ord ∧ Steady s t

/-- The coast limit takes a fan to OFF with the coast overrun flag set; the fault hold's end takes a fan to OFF when its
drive-fault contact is clear, and else leaves it in FAULT with the hold over. A fan brought to OFF answers the target in
force after the event: it stays in OFF, or takes the run path. The target in force (R116, R117), and what a change of it
does in each state (R116, R118 to R120, R123, R126, R137). The run, direction and brake outputs in each state (R115).
Outside STARTING and RUNNING the commanded direction and speed stay as last driven (the model's choice, but for the
direction in STOPPING: log 52). -/
def Obligations.CoastFaultHoldAndTargetsMoveTheFans : Prop :=
  (∀ (s : State) (f : FanId), s.active = true → s.installed f = true →
    ((s.fan f).state = .stopping → isDue s.now (s.fan f).coastUntil = true → Yields (.coastLimitExpiry f) s fun t =>
      (t.fan f).coastOverrun = true ∧ FromOff s t f
      ∧ (∀ g, g ≠ f → (s.fan g).Settles (t.fan g)) ∧ t.inc.bare = s.inc.bare ∧ t.ord = s.ord ∧ Steady s t)
    ∧ ((s.fan f).state = .fault → isDue s.now (s.fan f).holdUntil = true → Yields (.faultHoldExpiry f) s fun t =>
      ((s.fanIn f).debounced = true →
        { t.fan f with target := .off } = { s.fan f with holdUntil := none, target := .off })
      ∧ ((s.fanIn f).debounced = false → FromOff s t f ∧ (t.fan f).faultCount = (s.fan f).faultCount)
      ∧ (∀ g, g ≠ f → (s.fan g).Settles (t.fan g)) ∧ t.inc.bare = s.inc.bare ∧ t.ord = s.ord ∧ Steady s t))
  ∧ (∀ (s : State) (f : FanId),
    (∀ v, s.ord.vent = some v →
      s.inForce f = if s.isCounted f then .run v.dir (max s.cfg.sMin v.speed) else .off)
    ∧ (s.ord.vent = none → s.inForce f = s.fch.planTargets[f]))
  ∧ (∀ (s : State) (f : FanId) (a : Target),
    let x := s.fan f
    let u := s.changeTarget f a
    let told : State := s.modFan f fun y => { y with target := a }
    (x.target = a → u = s)
    ∧ (x.target ≠ a →
      (u.fan f).target = a ∧ (∀ g, g ≠ f → u.fan g = s.fan g)
      ∧ (s.life ≠ .run → u = told)
      ∧ (s.life = .run →
        ((x.state = .off ∨ x.state = .stopping ∨ x.state = .fault ∨ x.state = .lockedOut) → u = told)
        ∧ ((x.state = .braking ∨ x.state = .startWait) → a = .off →
          (u.fan f).state = .off ∧ (u.fan f).brakeUntil = none ∧ (u.fan f).staggerUntil = none
          ∧ (u.fan f).cmdDir = x.cmdDir ∧ (u.fan f).cmdSpeed = x.cmdSpeed
          ∧ (x.state = .startWait → u.fch.claim ≠ some f))
        ∧ ((x.state = .braking ∨ x.state = .startWait) → ∀ d v, a = .run d v →
          (x.target.dir? = some d → u = told) ∧ (x.target.dir? ≠ some d → RunPath s f d u))
        ∧ ((x.state = .starting ∨ x.state = .running) → a = .off → Stops s f u)
        ∧ ((x.state = .starting ∨ x.state = .running) → ∀ d v, a = .run d v →
          (x.cmdDir ≠ d → Stops s f u)
          ∧ (x.cmdDir = d → u.fan f = { x with target := a, cmdSpeed := min 100 (max s.cfg.sMin v) }
            ∧ (u.fanIn f).pendingDuty = some (min 100 (max s.cfg.sMin v)) ∧ u.fch.claim = s.fch.claim)))))
  ∧ (∀ (s : State) (f : FanId),
    ((s.life ≠ .run ∨ (s.fan f).state ≠ .off ∨ (s.fan f).target = .off) → s.leaveOff f = s)
    ∧ ∀ d v, s.life = .run → (s.fan f).state = .off → (s.fan f).target = .run d v →
      RunPath s f d (s.leaveOff f) ∧ ∀ g, g ≠ f → (s.leaveOff f).fan g = s.fan g)
  ∧ ∀ (s : State) (f : FanId),
    let x := s.fan f
    let shows (run dirA brake : Bool) : Prop := s.fanOutputs f = { run, dirA, brake }
    ((s.life = .load ∨ s.life = .configInvalid ∨ s.installed f = false) → shows false false false)
    ∧ ((s.life = .listen ∨ s.life = .run) → s.installed f = true →
      ((x.state = .off ∨ x.state = .startWait ∨ x.state = .fault ∨ x.state = .lockedOut) → shows false false false)
      ∧ (x.state = .braking → shows false false true)
      ∧ ((x.state = .starting ∨ x.state = .running) → shows true (x.cmdDir == .towardA) false)
      ∧ (x.state = .stopping → shows false (x.cmdDir == .towardA) false))

/-- A stagger expiry starts the claim holder (R121, R122, R147): STARTING in its target's direction at the speed of the
target in force, its start counted, the claim and its own entry GO, the frame saying so; it is stopped in the same event
only where the target in force is taken away. A measured speed moves a fan (R119, R120, R124, R125, R127): BRAKING to
START_WAIT, START_WAIT back to BRAKING, STARTING to RUNNING, RUNNING to FAULT by direction before speed loss, STOPPING
to OFF. At a sample expiry each consumer of the observation takes it as its own event, in some order (log 3), the
measured speeds of all installed fans, F1 first (log 53), among them (R13); so each fan is what its new speed makes of
it, but for what the ends of the events make of it. The stagger timer runs for (s mod 8) · 3 s while no line is UP and
stops when one is (R121). -/
def Obligations.StaggerAndMeasuredSpeedsMoveTheFans : Prop :=
  (∀ (s : State) (f : FanId) (d : Direction) (v : Nat), s.active = true → s.installed f = true →
    (s.fan f).state = .startWait → (s.fan f).target = .run d v → s.fch.claim = some f → s.anyUp = false →
    s.sq.own = .wait → isDue s.now (s.fan f).staggerUntil = true →
    Yields (.staggerExpiry f) s fun t =>
      Started s t f d
      ∧ (∀ g, g ≠ f → (s.fan g).Settles (t.fan g)) ∧ (∀ g, (t.fan g).minutes = (s.fan g).minutes)
      ∧ t.inc.bare = s.inc.bare ∧ t.ord = s.ord ∧ Steady s t)
  ∧ (∀ (s : State) (f : FanId) (m : Int),
    let x := s.fan f
    let u := s.speedUpdate f m
    let told : State := s.modFan f fun y => { y with measured := m }
    (u.fan f).measured = m ∧ (∀ g, g ≠ f → u.fan g = s.fan g)
    ∧ (s.life ≠ .run → u = told)
    ∧ (s.life = .run →
      ((x.state = .off ∨ x.state = .fault ∨ x.state = .lockedOut) → u = told)
      ∧ (x.state = .braking →
        (10 < m.natAbs → u = told)
        ∧ (m.natAbs ≤ 10 → u.fan f =
          if (s.fanIn f).debounced then { x with measured := m }.afterFault .drive s.now
          else { x with measured := m, state := .startWait, brakeUntil := none }))
      ∧ (x.state = .startWait → ∀ d v, x.target = .run d v →
        (-10 ≤ speedIn d m → u = told) ∧ (speedIn d m < -10 → RunPath told f d u))
      ∧ (x.state = .starting →
        (5 * speedIn x.cmdDir m < 4 * (x.cmdSpeed : Int) → u = told)
        ∧ (4 * (x.cmdSpeed : Int) ≤ 5 * speedIn x.cmdDir m →
          u.fan f = { x with measured := m, state := .running, startUntil := none, accSince := some s.now }
          ∧ u.fch.claim ≠ some f))
      ∧ (x.state = .running →
        let mD := speedIn x.cmdDir m
        let rev : Option Nat := if mD < 0 then some (x.directionFrom.getD s.now) else none
        let loss : Option Nat := if 2 * mD < x.cmdSpeed then some (x.speedLossFrom.getD s.now) else none
        let ripe (run : Option Nat) (len : Nat) : Prop := ∃ a, run = some a ∧ a + len ≤ s.now
        (ripe rev (ms 2000) → u.fan f = { x with measured := m }.afterFault .direction s.now)
        ∧ (¬ ripe rev (ms 2000) → ripe loss (ms 10000) →
          u.fan f = { x with measured := m }.afterFault .speedLoss s.now)
        ∧ (¬ ripe rev (ms 2000) → ¬ ripe loss (ms 10000) →
          u.fan f = { x with measured := m, directionFrom := rev, speedLossFrom := loss }))
      ∧ (x.state = .stopping →
        (10 < m.natAbs → u = told)
        ∧ (m.natAbs ≤ 10 → (u.fan f).state = .off ∧ (u.fan f).coastUntil = none))))
  ∧ (∀ (s : State) (f : FanId), s.installed f = true →
    s.speedUpdates.fan f = (s.speedUpdate f (s.fanIn f).measured).fan f)
  ∧ (∀ (o : Observation) (s : State), s.consume o .speeds = s.speedUpdates.finish
    ∧ s.consume o .svt = (s.observeView o).finish ∧ s.consume o .inc = (s.observeDetectors o).finish
    ∧ s.consume o .tal = (s.observeThrust o).finish ∧ s.consume o .exposure = (s.observeExposure o).finish)
  ∧ (∀ s : State, s.active = true → isDue s.now s.fiu.sampleDue = true →
    Yields .sampleTimerExpiry s fun t =>
      (∃ o order, t.fiu.obs = some o ∧ List.Perm order [.speeds, .svt, .inc, .tal, .exposure]
        ∧ t = (order.foldl (State.consume o) s.sample.counted).finish)
      ∧ (¬ s.ExposureRipe → ∀ f, s.installed f = true → Moved s t f (t.fan f)))
  ∧ (∀ (s : State) (f : FanId), s.fch.claim = some f → (s.fan f).state = .startWait →
    let put (e : Option Nat) : State := s.modFan f fun x => { x with staggerUntil := e }
    (s.anyUp = true → s.updateStagger = put none)
    ∧ (s.anyUp = false → (s.fan f).staggerUntil = none → s.updateStagger = put (some (s.now + sec (s.own % 8 * 3))))
    ∧ (s.anyUp = false → (s.fan f).staggerUntil ≠ none → s.updateStagger = s))
  ∧ (∀ s : State, s.life = .run → Staggers s s.finish)
  ∧ (∀ (s : State) (c : Instr) (l : LineId) (k : FrameKind) (h : RxHeader) (p : List Byte), s.life = .run →
    bodyOf c = some (l, k, h, p) → bodyCheck s.own s.cfg.n k h p = none → Yields c s (Staggers s))
  ∧ ∀ (s : State) (l : LineId), s.life = .run →
    ((s.line l).state = .up → (s.line l).quietFrom + ms 3000 ≤ s.now → Yields (.quietWatchExpiry l) s (Staggers s))
    ∧ ((s.line l).inAttempt ≠ none → Yields (.attemptCollision l) s (Staggers s)
      ∧ Yields (.attemptEchoAbsent l) s (Staggers s))

/-- A grant (R146): the claim and the own entry become GO, the frame says so, and the holder enters STARTING with its
commanded direction, speed and duty. Where no grant is due nothing changes. Before it, the claim is opened for the
lowest fan in START_WAIT (R120, R144), and the clean echo of its frame brings the own entry into the list (R145); at its
end it is closed and the own entry leaves (R148). -/
def Obligations.GrantStartsTheHolder : Prop :=
  (∀ s : State,
    (s.grantDue = true ↔ s.sq.own = .wait ∧ ∃ p, s.position = some p ∧ p < s.cfg.startsLimit)
    ∧ (s.grantDue = false → s.judgeGrant = s)
    ∧ ∀ (f : FanId) (d : Direction) (v : Nat), s.grantDue = true → s.fch.claim = some f →
      (s.fan f).state = .startWait → (s.fan f).target = .run d v →
      let t := s.judgeGrant
      t.sq.own = .go ∧ t.sq.ownNumber = s.sq.ownNumber ∧ t.sq.resendDue = some (s.now + sec 5)
      ∧ (∀ e ∈ t.sq.list, e.station = s.own → e.go = true)
      ∧ peersOf s.own t.sq.list = peersOf s.own s.sq.list
      ∧ (s.life = .run → ∀ l, (s.line l).state ≠ .down → (t.line l).claim.newest.map Copy.payload
          = some (encodeClaim ⟨s.cfg.group, f.val + 1, s.sq.ownNumber, .go⟩))
      ∧ (t.fan f).state = .starting ∧ (t.fan f).cmdDir = d ∧ (t.fan f).cmdSpeed = min 100 (max s.cfg.sMin v)
      ∧ (t.fanIn f).pendingDuty = some (min 100 (max s.cfg.sMin v))
      ∧ (t.fan f).startUntil = some (s.now + sec s.cfg.startLimit)
      ∧ (t.fan f).speedLossFrom = none ∧ (t.fan f).directionFrom = none
      ∧ (t.fan f).starts = satInc (s.fan f).starts ∧ (∀ g, g ≠ f → t.fan g = s.fan g)
      ∧ t.inc = s.inc ∧ t.ord = s.ord ∧ Steady s t)
  ∧ (∀ (s : State) (f : FanId), s.fch.claim = none → s.life = .run → s.installed f = true →
    (s.fan f).state = .startWait → (∀ g, g < f → s.installed g = true → (s.fan g).state ≠ .startWait) →
    let t := s.settleClaim
    t.fch.claim = some f ∧ t.sq.own = .wait ∧ t.sq.ownFan = some f ∧ t.sq.ownNumber = s.sq.ownNumber + 1
    ∧ t.sq.resendDue = some (s.now + sec 5) ∧ t.sq.list = s.sq.list ∧ (∀ g, t.fan g = s.fan g)
    ∧ ∀ l, (s.line l).state ≠ .down → (t.line l).claim.newest.map Copy.payload
        = some (encodeClaim ⟨s.cfg.group, f.val + 1, s.sq.ownNumber + 1, .wait⟩))
  ∧ (∀ (s : State) (f : FanId) (st : ClaimState), (s.fch.claim ≠ some f → s.handBack f st = s)
    ∧ (s.fch.claim = some f →
      let t := s.handBack f st
      t.fch.claim = none ∧ t.sq.own = .none ∧ t.sq.ownFan = none ∧ t.sq.resendDue = none
      ∧ t.sq.list = peersOf s.own s.sq.list ∧ t.sq.overflow = (s.sq.overflow && !t.sq.list.isEmpty)
      ∧ (∀ g, t.fan g = s.fan g)
      ∧ (s.life = .run → ∀ l, (s.line l).state ≠ .down → (t.line l).claim.newest.map Copy.payload
          = some (encodeClaim ⟨s.cfg.group, f.val + 1, s.sq.ownNumber, st⟩))))
  ∧ (∀ (s : State) (p : List Byte),
    let current : Prop := s.sq.own ≠ .none ∧ (∃ f : FanId, s.sq.ownFan = some f ∧ byteAt p 1 = f.val + 1)
      ∧ p.getD 2 0 = s.sq.ownNumber
    let own : QueueEntry := ⟨s.own, byteAt p 1, s.sq.ownNumber, s.sq.own == .go, s.now⟩
    (¬ current → s.ownEcho p = s)
    ∧ (current → (∃ e ∈ s.sq.list, e.station = s.own) →
      s.ownEcho p = { s with sq := { s.sq with
        list := s.sq.list.map fun e => if e.station = s.own then { e with heardAt := s.now } else e } })
    ∧ (current → (∀ e ∈ s.sq.list, e.station ≠ s.own) → s.sq.list.length < 24 →
      s.ownEcho p = { s with sq := { s.sq with list := s.sq.list ++ [own] } }.judgeGrant)
    ∧ (current → (∀ e ∈ s.sq.list, e.station ≠ s.own) → 24 ≤ s.sq.list.length →
      s.ownEcho p = { s with sq := { s.sq with overflow := true, dropped := satInc s.sq.dropped } }.judgeGrant))
  ∧ ∀ (s : State) (l : LineId) (k : TxKind) (c : Copy), (s.line l).inAttempt = some (k, c) →
    exec (.attemptClean l) s = .next ((if k = .claim then (s.modLine l (·.endClean k s.now)).ownEcho c.payload
      else s.modLine l (·.endClean k s.now)).finish)

/-- A whole minute of RUNNING is counted, the rest of the accumulator stays, and every fifteenth is written. -/
def Obligations.RunMinutesAreCountedAndWritten : Prop :=
  ∀ (s : State) (f : FanId), s.active = true → s.installed f = true → ms 60000 ≤ (s.fan f).accumulated s.now →
    Yields (.runMinuteElapsed f) s fun t =>
      (t.fan f).minutes = satInc (s.fan f).minutes
      ∧ (t.fan f).accumulated s.now = (s.fan f).accumulated s.now - ms 60000
      ∧ ((s.fan f).minutesWritten.toNat + 15 ≤ (satInc (s.fan f).minutes).toNat →
          Asked t (.runMinutes f) (satInc (s.fan f).minutes).toNat)
      ∧ (∀ g, g ≠ f → (s.fan g).Settles (t.fan g) ∧ (t.fan g).minutes = (s.fan g).minutes)
      ∧ t.inc.bare = s.inc.bare ∧ t.ord = s.ord ∧ Steady s t

/-! ## The start queue -/

/-- A delivered START_CLAIM: rejected when its content fails (R139); of another group ignored; of the own group, WAIT
and GO keep a known entry in its place, replace the section's other claim at the newest end, or append it while a place
is free; DONE and ABANDON remove the known entry. Where the list then makes the grant due, the claim's holder starts
(R141, R146). -/
def Obligations.StartClaimsKeepTheQueue : Prop :=
  (∀ p m, parseClaim p = some m ↔ ClaimReads p m)
  ∧ ∀ (s : State) (c : Instr) (l : LineId) (k : Nat) (q : BitVec 8) (p : List Byte), Delivered s c l .startClaim k q p →
    (parseClaim p = none → Yields c s fun t => t.sq.rejected = satInc s.sq.rejected
      ∧ peersOf s.own t.sq.list = peersOf s.own s.sq.list ∧ t.inc.bare = s.inc.bare ∧ t.ord = s.ord ∧ Steady s t)
    ∧ ∀ m, parseClaim p = some m → Yields c s fun t =>
      t.inc.bare = s.inc.bare ∧ t.ord = s.ord ∧ Steady s t ∧ t.sq.rejected = s.sq.rejected
      ∧ t.sq.expired = s.sq.expired
      ∧ (m.group ≠ s.cfg.group → peersOf s.own t.sq.list = peersOf s.own s.sq.list)
      ∧ (m.group = s.cfg.group → (m.state = .wait ∨ m.state = .go) →
          let e : QueueEntry := ⟨k, m.fan, m.number, m.state == .go, s.now⟩
          if s.sq.list.any (·.known k m.fan m.number) then
            peersOf s.own t.sq.list = peersOf s.own (s.sq.list.map fun x =>
              if x.known k m.fan m.number then { x with go := m.state == .go, heardAt := s.now } else x)
          else if s.sq.list.any (·.station == k) then
            peersOf s.own t.sq.list = peersOf s.own (s.sq.list.filter (·.station != k)) ++ [e]
          else if s.sq.list.length < 24 then peersOf s.own t.sq.list = peersOf s.own s.sq.list ++ [e]
          else peersOf s.own t.sq.list = peersOf s.own s.sq.list ∧ t.sq.dropped = satInc s.sq.dropped
            ∧ (s.sq.listOk → t.sq.overflow = true))
      ∧ (m.group = s.cfg.group → (m.state = .done ∨ m.state = .abandon) →
          peersOf s.own t.sq.list = peersOf s.own (s.sq.list.filter fun x => !x.known k m.fan m.number)
          ∧ GrantJudged s t (s.sq.list.filter fun x => !x.known k m.fan m.number))
      ∧ (m.group = s.cfg.group → (m.state = .wait ∨ m.state = .go) →
          (s.sq.list.any (·.known k m.fan m.number)) = false → s.sq.list.any (·.station == k) = true →
          GrantJudged s t (s.sq.list.filter (·.station != k) ++ [⟨k, m.fan, m.number, m.state == .go, s.now⟩]))

/-! ## The service port and the store -/

/-- MODE and POINTER cycles of a port that can act (R162 to R164, R179): a cycle begins with PCS_N low, its function by
the code on PFN and its direction by PRW, and its ending edge acts; a read returns the byte that stood on PD. The ending
rows act on the begun cycle of their function and direction (the model's choice: log 13); the level of SERVICE_EN comes
with the row (the model's choice: log 15); the byte on PD is that of the state at the ending edge (the model's choice:
log 43). PRDY is low in reset, in LOAD and while the cycle in progress has a cause to wait, and high else, between
cycles too (the model's choice: log 42); PD is driven in a read cycle while PRDY is high (R162, R165). -/
def Obligations.ModeAndPointerCycles : Prop :=
  ∀ s : State,
    ((s.resetHeld = true ∨ s.life = .load) → s.prdy = false)
    ∧ (s.resetHeld = false → s.life ≠ .load → s.spt.cycle = none → s.prdy = true)
    ∧ (∀ fn read, s.resetHeld = false → s.life ≠ .load → s.spt.cycle = some ⟨fn, read⟩ → (s.prdy = false ↔
        (fn = .pointer ∧ read = false ∧ s.spt.queue ≠ [])
        ∨ ((fn = .dataInc ∨ fn = .dataNoInc) ∧ read = true ∧ s.spt.rp.toNat < 0x400 ∧ s.spt.queue ≠ [])
        ∨ ((fn = .dataInc ∨ fn = .dataNoInc) ∧ read = false ∧ 8 ≤ s.spt.queue.length)))
    ∧ (s.drivenByte.isSome = true ↔ s.prdy = true ∧ ∃ fn, s.spt.cycle = some ⟨fn, true⟩)
    ∧ (∀ pfn prw, exec (.portCycleBegin true pfn prw) s
        = .next (s.modSpt fun x => { x with cycle := some ⟨portFnOf pfn, prw⟩ })
      ∧ exec (.portCycleBegin false pfn prw) s = .next s)
    ∧ portFnOf 0b00 = .mode ∧ portFnOf 0b01 = .dataInc ∧ portFnOf 0b10 = .pointer ∧ portFnOf 0b11 = .dataNoInc
    ∧ (s.portHeld = false →
      (∀ data, s.spt.cycle = some ⟨.mode, false⟩ → exec (.modeWrite data) s = .next (s.modSpt fun x =>
        { x with
          cycle := none, second := false, dual := data.getLsbD 0, select := data.getLsbD 1, phase := false
          wp := if x.dual = true ∧ data.getLsbD 0 = false then x.rp else x.wp }))
      ∧ (∀ level, s.spt.cycle = some ⟨.mode, true⟩ →
        let byte (x : Spt) : Byte :=
          if x.second then byteOf (bitNat x.dual 0 + bitNat x.select 1 + bitNat x.phase 2)
          else byteOf (x.queue.length + bitNat x.refused 4 + bitNat level 5 + bitNat s.cst.engine.isSome 6
            + bitNat (s.life == .configInvalid) 7)
        exec (.modeRead level) s = .next (s.modSpt fun x =>
          { x with cycle := none, serviceEn := level, second := !x.second, pd := byte x })
        ∧ (s.setServiceEn level).drivenByte = some (byte s.spt))
      ∧ (∀ data, s.spt.cycle = some ⟨.pointer, false⟩ → s.spt.queue = [] →
        exec (.pointerWrite data) s = .next (s.modSpt fun x =>
        { x with
          cycle := none, second := false, phase := !x.phase
          rp := if x.dual = true ∧ x.select = true then x.rp else
            if x.phase then data ++ x.rp.setWidth 8 else x.rp.extractLsb' 8 8 ++ data
          wp := if x.dual = true ∧ x.select = false then x.wp else
            if x.phase then data ++ x.wp.setWidth 8 else x.wp.extractLsb' 8 8 ++ data }))
      ∧ (s.spt.cycle = some ⟨.pointer, true⟩ →
        let byte (x : Spt) : Byte := if x.phase then x.rp.extractLsb' 8 8 else x.rp.setWidth 8
        exec .pointerRead s = .next (s.modSpt fun x =>
          { x with cycle := none, second := false, phase := !x.phase, pd := byte x })
        ∧ s.drivenByte = some (byte s.spt)))

/-- A cycle that ends while the port must wait is discarded: nothing but the cycle itself, the level of SERVICE_EN that
its row tells (the model's choice: log 15), and at a read PD, changes. PD is then a free value, drawn with its number
counted (the model's choice: log 14). A strobe that ends no cycle in progress, for none began, a reset discarded it
(R172), or another one is in progress, does nothing (the model's choice: log 13). -/
def Obligations.WaitingCyclesAreDiscarded : Prop :=
  ∀ s : State,
    let gone : State := s.modSpt fun x => { x with cycle := none, second := false }
    let during (fn : PortFn) (read : Bool) : Prop := s.spt.cycle = some ⟨fn, read⟩
    let enabled (level : Bool) (u : State) : State := u.modSpt fun x => { x with serviceEn := level }
    (∀ data level, s.portHeld = true →
      (during .mode false → exec (.modeWrite data) s = .next gone)
      ∧ (during .pointer false → exec (.pointerWrite data) s = .next gone)
      ∧ (during .dataInc false → exec (.dataWriteAutoincrement data level) s = .next (enabled level gone))
      ∧ (during .dataNoInc false → exec (.dataWriteNoIncrement data level) s = .next (enabled level gone)))
    ∧ (∀ data, during .pointer false → s.spt.queue ≠ [] → exec (.pointerWrite data) s = .next gone)
    ∧ (∀ data level, 8 ≤ s.spt.queue.length →
      (during .dataInc false → exec (.dataWriteAutoincrement data level) s = .next (enabled level gone))
      ∧ (during .dataNoInc false → exec (.dataWriteNoIncrement data level) s = .next (enabled level gone)))
    ∧ (∀ level, during .mode true → s.portHeld = true → Yields (.modeRead level) s fun t =>
      t = { enabled level gone with spt := { (enabled level gone).spt with pd := t.spt.pd }, draws := s.draws + 1 })
    ∧ (∀ c, (s.portHeld = true ∧ (during .pointer true ∧ c = Instr.pointerRead
          ∨ during .dataInc true ∧ c = .dataReadAutoincrement ∨ during .dataNoInc true ∧ c = .dataReadNoIncrement)
        ∨ s.spt.rp.toNat < 0x400 ∧ s.spt.queue ≠ [] ∧ (during .dataInc true ∧ c = .dataReadAutoincrement
          ∨ during .dataNoInc true ∧ c = .dataReadNoIncrement)) →
      Yields c s fun t => t = { gone with spt := { gone.spt with pd := t.spt.pd }, draws := s.draws + 1 })
    ∧ (∀ data level,
      (¬ during .mode false → exec (.modeWrite data) s = .next s)
      ∧ (¬ during .mode true → exec (.modeRead level) s = .next (enabled level s))
      ∧ (¬ during .pointer false → exec (.pointerWrite data) s = .next s)
      ∧ (¬ during .pointer true → exec .pointerRead s = .next s)
      ∧ (¬ during .dataInc false → exec (.dataWriteAutoincrement data level) s = .next (enabled level s))
      ∧ (¬ during .dataNoInc false → exec (.dataWriteNoIncrement data level) s = .next (enabled level s))
      ∧ (¬ during .dataInc true → exec .dataReadAutoincrement s = .next s)
      ∧ (¬ during .dataNoInc true → exec .dataReadNoIncrement s = .next s))

/-- DATA writes: a refused byte is dropped and sets the flag; a taken one clears it and waits in the queue; either
advances the pointer when the cycle does; the store's bytes do not change. A byte is refused by SERVICE_EN, address,
latch value and lock (R166), by the lock bits stored and those that wait in the write queue. The level of SERVICE_EN
comes with the row and is kept (the model's choice: log 15); the row ends the begun cycle of its function and direction
(the model's choice: log 13). -/
def Obligations.DataWritesAreQueuedOrRefused : Prop :=
  (∀ (s : State) (data : Byte) (level inc : Bool), s.portHeld = false → s.spt.queue.length < 8 →
    s.spt.cycle = some ⟨if inc then .dataInc else .dataNoInc, false⟩ →
    Yields (if inc then .dataWriteAutoincrement data level else .dataWriteNoIncrement data level) s fun t =>
      let refused := s.writeRefused s.spt.wp.toNat data level
      t.spt = { s.spt with
        cycle := none, second := false, serviceEn := level, refused := refused
        queue := if refused then s.spt.queue else s.spt.queue ++ [(s.spt.wp, data)]
        wp := if inc then s.spt.wp + 1 else s.spt.wp
        rp := if inc = true ∧ s.spt.dual = false then s.spt.wp + 1 else s.spt.rp }
      ∧ t.cst.store = s.cst.store
      ∧ (s.cst.engine ≠ none → t.cst = s.cst)
      ∧ (refused = false → s.cst.engine = none → s.cst.updates = [] →
          t.cst.engine = some ⟨.portEntry, s.now + ms 3⟩)
      ∧ t = { s with spt := t.spt, cst := t.cst })
  ∧ ∀ (s : State) (a : Nat) (data : Byte) (level : Bool),
    let lock := s.effectiveLock;
    (∀ i, i < 3 → (lock.getLsbD i = true ↔ (s.cst.store.read 0xC0).getLsbD i = true
        ∨ ∃ e ∈ s.spt.queue, e.1.toNat = 0xC0 ∧ e.2.getLsbD i = true))
    ∧ (s.writeRefused a data level = false ↔
      level = true
      ∧ (a ≤ 0x1A ∨ (0x3E ≤ a ∧ a ≤ 0x5C) ∨ (0x60 ≤ a ∧ a ≤ 0x77) ∨ (0xBE ≤ a ∧ a ≤ 0xC4))
      ∧ (0xC1 ≤ a → a ≤ 0xC4 → data = 0)
      ∧ ¬ (lock.getLsbD 0 = true ∧ a ≤ 0x3F)
      ∧ ¬ (lock.getLsbD 1 = true ∧ 0x40 ≤ a ∧ a ≤ 0x5C)
      ∧ ¬ (lock.getLsbD 2 = true ∧ 0x60 ≤ a ∧ a ≤ 0x77)
      ∧ ¬ (lock.getLsbD 1 = true ∧ lock.getLsbD 2 = true ∧ 0xBE ≤ a ∧ a ≤ 0xBF))

/-- DATA reads: the store's byte at a store address, else the byte of the record space or of the snapshot held; the read
pointer advances when the cycle does; no other block changes. Two free numbers are counted at each read (the model's
choice: log 36). The record space is laid out as R175 and R176 state: its regions, each record's fields in their bytes,
0 elsewhere (check codes of the running copy: log 23; slots of a line: log 27; absent plan figures: log 24; remaining
times rounded up: log 25; call-point counters of CONFIG_INVALID at 33C5h: log 37; the own entry's age: log 34; a peer's
payload as received: log 21; set marks read 01h: log 45; bytes and bits without a field between fields: log 47; past the
last field of a fan, line or gateway record: log 48; no section in CONFIG_INVALID: log 22). The first byte of a record
fills the snapshot buffer, also of a place past the used end (the model's choice: log 41): the snapshot records are the
Section View entries, the held incident record, the fan records and the start queue entries (R168). The commanded
direction and speed of a fan record outside STARTING and RUNNING: log 52. The row ends the begun cycle of its function
and direction (log 13), and the byte is the one that stood on PD (log 43). -/
def Obligations.DataReadsReturnTheByteAtThePointer : Prop :=
  (∀ s : State, s.RecordsLaidOut)
  ∧ (∀ base len i, snapshotAt (base + i) = some (base, len) ∧ i < len ↔ i < len
    ∧ ((∃ k, k < 96 ∧ base = 0x2000 + 32 * k ∧ len = 32) ∨ (base = 0x3000 ∧ len = 32)
      ∨ (∃ f : FanId, base = 0x3100 + 64 * f.val ∧ len = 64) ∨ ∃ j, j < 24 ∧ base = 0x3200 + 8 * j ∧ len = 8))
  ∧ (∀ a base len, snapshotAt a = some (base, len) → base ≤ a ∧ a < base + len)
  ∧ ∀ (s : State) (inc : Bool), s.portHeld = false → (s.spt.rp.toNat < 0x400 → s.spt.queue = []) →
    s.spt.cycle = some ⟨if inc then .dataInc else .dataNoInc, true⟩ →
    Yields (if inc then .dataReadAutoincrement else .dataReadNoIncrement) s fun t =>
      t = { s with spt := t.spt, draws := s.draws + 2 } ∧ s.drivenByte = some t.spt.pd
      ∧ t.spt = { s.spt with
        cycle := none, second := false, pd := t.spt.pd, snap := t.spt.snap
        rp := if inc then s.spt.rp + 1 else s.spt.rp
        wp := if inc = true ∧ s.spt.dual = false then s.spt.rp + 1 else s.spt.wp }
      ∧ (s.spt.rp.toNat < 0x400 → t.spt.pd = s.cst.store.read s.spt.rp.toNat)
      ∧ (snapshotAt s.spt.rp.toNat = none → t.spt.pd = s.liveByte s.spt.rp.toNat ∧ t.spt.snap = none)
      ∧ (∀ base len, snapshotAt s.spt.rp.toNat = some (base, len) →
          (s.spt.rp.toNat = base → t.spt.pd = s.liveByte base
            ∧ t.spt.snap = some ⟨base, (List.range len).map fun i => s.liveByte (base + i)⟩)
          ∧ (s.spt.rp.toNat ≠ base → ∀ x, s.spt.snap = some x → x.base = base →
              t.spt.pd = x.bytes.getD (s.spt.rp.toNat - base) 0 ∧ t.spt.snap = some x)
          ∧ (s.spt.rp.toNat ≠ base → (∀ x, s.spt.snap = some x → x.base ≠ base) →
              t.spt.pd = s.liveByte s.spt.rp.toNat ∧ t.spt.snap = none))

/-- The two completions: the oldest queue entry's byte, or the item's bytes, are in the store and no other byte changes;
the running copy stays. A latch cleared with no set waiting takes its fan to OFF, its fault count 0 and its causes none,
and the target in force is acted on (R134), an active drive-fault contact being its first fault again (R128). The engine
then, at the event's end (by inference: log 33), takes the next work, 3 ms a byte: the oldest internal update, else the
oldest queue entry (R165, R167). Each item's
address and bytes, low byte first (R177). -/
def Obligations.ProgrammingCompletes : Prop :=
  (∀ (i : Item) (v : Nat), (i.addr, i.bytes v) = match i with
    | .declCounter => (0xC8, [byteOf v, byteOf (v / 256), byteOf (v / 65536)])
    | .startCounter f => (0xD0 + 9 * f.val, [byteOf v, byteOf (v / 256), byteOf (v / 65536)])
    | .faultCounter f => (0xD3 + 9 * f.val, [byteOf v, byteOf (v / 256), byteOf (v / 65536)])
    | .runMinutes f => (0xD6 + 9 * f.val, [byteOf v, byteOf (v / 256), byteOf (v / 65536)])
    | .latch f => (0xC1 + f.val, [byteOf v])
    | .ownInhibit => (0xC5, [byteOf v]))
  ∧ (∀ (i : Item) (v : Nat), i.width = (i.bytes v).length)
  ∧ ∀ (s : State) (w : Nat), Memory.wf s.cst.store → w ≤ s.now →
    let takes (t : State) (queue : List (BitVec 16 × Byte)) : Prop :=
      (∀ i v l, s.cst.updates = (i, v) :: l →
        ∃ x, t.cst.engine = some ⟨.item i x, s.now + i.width * ms 3⟩)
      ∧ ((∀ g, (t.fan g).state = (s.fan g).state ∨ (s.fan g).state = .lockedOut ∧ (t.fan g).state ≠ .fault) →
        match s.cst.updates with
        | (i, v) :: l => t.cst.engine = some ⟨.item i v, s.now + i.width * ms 3⟩ ∧ t.cst.updates = l
        | [] => t.cst.engine = (if queue = [] then none else some ⟨.portEntry, s.now + ms 3⟩) ∧ t.cst.updates = []);
    (∀ a data rest, s.cst.engine = some ⟨.portEntry, w⟩ → s.spt.queue = (a, data) :: rest →
      Yields .queueEntryProgrammed s fun t =>
        t.spt = { s.spt with queue := rest } ∧ t.running = s.running ∧ takes t rest
        ∧ (∀ j, t.cst.store.read j = if j = a.toNat then
            (if a.toNat = 0xC0 then s.cst.store.read 0xC0 ||| (data &&& 7) else data) else s.cst.store.read j)
        ∧ t.inc.bare = s.inc.bare ∧ t.ord = s.ord
        ∧ ∀ f : FanId, a.toNat = 0xC1 + f.val → s.active = true → s.installed f = true →
          (s.fan f).state = .lockedOut →
          if s.cst.updates.any (fun u => u.1 == .latch f) then
            { t.fan f with target := .off } = { s.fan f with target := .off }
          else FromOff s t f ∧ (t.fan f).lockout = .none
            ∧ ((t.fan f).state ≠ .fault → (t.fan f).faultCount = 0 ∧ (t.fan f).lastFault = .none)
            ∧ ((t.fan f).state = .fault → (t.fan f).faultCount = 1 ∧ (t.fan f).lastFault = .drive)
            ∧ (t.fan f).state ≠ .lockedOut)
    ∧ ∀ i v, s.cst.engine = some ⟨.item i v, w⟩ →
      Yields .updateItemProgrammed s fun t =>
        t.spt = s.spt ∧ t.running = s.running ∧ takes t s.spt.queue
        ∧ (∀ j, t.cst.store.read j = if i.addr ≤ j ∧ j < i.addr + i.width then (i.bytes v).getD (j - i.addr) 0
            else s.cst.store.read j)
        ∧ t.inc.bare = s.inc.bare ∧ t.ord = s.ord

/-! ## Invariants -/

/-- Reset satisfies every invariant below. -/
def Obligations.ResetSatisfiesTheInvariants : Prop :=
  State.reset.StoreOk ∧ State.reset.BoundsOk ∧ State.reset.ClaimOk ∧ State.reset.FansSafe

/-- Every step keeps the store in its canonical form, each item once in the update list, at most eight entries in the
write queue, and in single mode both pointers equal. -/
def Obligations.StepKeepsStoreAndPort : Prop := ∀ s t : State, s.StoreOk → step s = .next t → t.StoreOk

/-- Every step keeps the retired list, the start queue, the windows, the measured speeds and duties, the drop counts and
the node's place within the bounds that the rules give them. -/
def Obligations.StepKeepsListsAndRanges : Prop := ∀ s t : State, s.BoundsOk → step s = .next t → t.BoundsOk

/-- Every step keeps the one start claim: held by a fan in START_WAIT or STARTING, and no fan is in STARTING without it.
-/
def Obligations.StepKeepsTheStartClaim : Prop := ∀ s t : State, s.ClaimOk → step s = .next t → t.ClaimOk

/-- Every step keeps the fans safe: none leaves OFF before RUN, none waits to start while it turns backward faster than
10 %, none runs with its drive-fault contact active; in RUN every channel has the target in force, and none is in
STARTING or RUNNING with the target OFF in force, under own inhibit, inside the exclusion span, or without an incident
or a vent run (R116). -/
def Obligations.StepKeepsTheFansSafe : Prop := ∀ s t : State, s.FansSafe → step s = .next t → t.FansSafe
end

