-- ==== Sys2Proof/Laws/Bounds.lean ====
section
/-! SUPPORT. What the operations on the part's lists and ranges keep: the retired list, the start queue, the update
list, the port, the field inputs. -/

namespace Sys2Proof.Machine

/-! ## The retired list (R82) -/

theorem retire_length (l : List Identity) (id : Identity) (h : l.length ≤ Config.retiredLimit) :
    (retire l id).length ≤ Config.retiredLimit := by
  unfold retire
  split
  · exact h
  · split
    · simp only [List.length_append, List.length_cons, List.length_nil]; omega
    · simp only [List.length_append, List.length_drop, List.length_cons, List.length_nil]
      have : Config.retiredLimit = 8 := rfl
      omega

theorem retire_nodup (l : List Identity) (id : Identity) (h : l.Nodup) : (retire l id).Nodup := by
  unfold retire
  by_cases hc : l.contains id = true
  · rw [if_pos hc]; exact h
  · rw [if_neg hc]
    have hn : id ∉ l := by simpa using hc
    split
    · exact List.nodup_append.mpr ⟨h, by simp, fun a ha b hb => by simp at hb; subst hb; exact fun e => hn (e ▸ ha)⟩
    · exact List.nodup_append.mpr ⟨h.sublist (List.drop_sublist ..), by simp, fun a ha b hb => by
        simp at hb; subst hb; exact fun e => hn (e ▸ List.mem_of_mem_drop ha)⟩

theorem mem_retire (l : List Identity) (id : Identity) : id ∈ retire l id := by
  unfold retire
  split
  · rename_i h; simpa using h
  · split <;> simp

/-- Nothing but the named identity enters the list. -/
theorem mem_of_mem_retire {l : List Identity} {id x : Identity} (h : x ∈ retire l id) : x = id ∨ x ∈ l := by
  unfold retire at h
  split at h
  · exact .inr h
  · split at h
    · simp at h; exact h.symm
    · simp only [List.mem_append, List.mem_singleton] at h
      exact h.elim (fun h => .inr (List.mem_of_mem_drop h)) .inl

/-! ## The start queue (R140 to R143) -/

theorem listOk_setList {q : Sq} {l : List QueueEntry} (h : q.listOk) (hl : l.Sublist q.list) : (q.setList l).listOk :=
  ⟨Nat.le_trans hl.length_le h.1, h.2.sublist (hl.map _)⟩

theorem listOk_removeSection {q : Sq} (h : q.listOk) (k : Nat) : (q.removeSection k).listOk :=
  listOk_setList h List.filter_sublist

theorem listOk_forget {q : Sq} (h : q.listOk) (k : Nat) (m : ClaimMsg) : (q.forget k m).listOk := by
  unfold Sq.forget
  split
  · exact listOk_setList h List.filter_sublist
  · exact h

/-- A change of the entries that leaves their sections. -/
theorem listOk_map {q r : Sq} (h : q.listOk) (g : QueueEntry → QueueEntry) (hg : ∀ e, (g e).station = e.station)
    (hr : r.list = q.list.map g) : r.listOk := by
  unfold Sq.listOk
  rw [hr, List.length_map, List.map_map]
  exact ⟨h.1, by rw [show QueueEntry.station ∘ g = QueueEntry.station from funext hg]; exact h.2⟩

theorem listOk_markOwnGo {q : Sq} (h : q.listOk) (own : Nat) : (q.markOwnGo own).listOk :=
  listOk_map h _ (fun e => by split <;> rfl) rfl

theorem nodup_snoc {l : List Nat} {k : Nat} (h : l.Nodup) (hk : k ∉ l) : (l ++ [k]).Nodup :=
  List.nodup_append.mpr ⟨h, by simp, fun a ha b hb => by simp at hb; subst hb; exact fun e => hk (e ▸ ha)⟩

theorem listOk_append {q : Sq} (h : q.listOk) (e : QueueEntry) (he : e.station ∉ q.list.map QueueEntry.station) :
    (q.append e).listOk := by
  unfold Sq.append
  split
  · rename_i hl
    refine ⟨?_, ?_⟩
    · simp only [List.length_append, List.length_cons, List.length_nil]; omega
    · simp only [List.map_append, List.map_cons, List.map_nil]
      exact nodup_snoc h.2 he
  · exact h

theorem station_not_mem {l : List QueueEntry} {k : Nat} (h : ¬ (l.any (·.station == k)) = true) :
    k ∉ l.map QueueEntry.station := by
  intro hk
  obtain ⟨e, he, hs⟩ := List.mem_map.mp hk
  exact h (List.any_eq_true.mpr ⟨e, he, by simpa using hs⟩)

theorem listOk_hear {q : Sq} (h : q.listOk) (k : Nat) (m : ClaimMsg) (now : Nat) : (q.hear k m now).listOk := by
  unfold Sq.hear
  dsimp only
  split
  · exact listOk_map h _ (fun e => by split <;> rfl) rfl
  · split
    · rename_i hk
      obtain ⟨e, he, hs⟩ := List.any_eq_true.mp hk
      have hlt : (q.list.filter (·.station != k)).length < q.list.length :=
        List.length_filter_lt_length_iff_exists.mpr ⟨e, he, by simpa using hs⟩
      refine ⟨?_, ?_⟩
      · have := h.1
        simp only [List.length_append, List.length_cons, List.length_nil]; omega
      · simp only [List.map_append, List.map_cons, List.map_nil]
        refine nodup_snoc (h.2.sublist (List.filter_sublist.map _)) fun hk => ?_
        obtain ⟨e, he, hs⟩ := List.mem_map.mp hk
        have := (List.mem_filter.mp he).2
        simp [hs] at this
    · rename_i hk
      exact listOk_append h _ (station_not_mem hk)

/-! ## The update list (R167) -/

theorem mem_map_putUpdate {i : Item} {v : Nat} {l : List (Item × Nat)} {j : Item}
    (h : j ∈ (putUpdate i v l).map Prod.fst) : j = i ∨ j ∈ l.map Prod.fst := by
  induction l with
  | nil => simp [putUpdate] at h; exact .inl h
  | cons u l ih =>
    obtain ⟨k, w⟩ := u
    unfold putUpdate at h
    split at h
    · simp only [List.map_cons, List.mem_cons] at h ⊢
      exact h.elim .inl fun h => .inr (.inr h)
    · simp only [List.map_cons, List.mem_cons] at h ⊢
      rcases h with h | h
      · exact .inr (.inl h)
      · exact (ih h).imp id .inr

theorem putUpdate_nodup {i : Item} {v : Nat} {l : List (Item × Nat)} (h : (l.map Prod.fst).Nodup) :
    ((putUpdate i v l).map Prod.fst).Nodup := by
  induction l with
  | nil => simp [putUpdate]
  | cons u l ih =>
    obtain ⟨k, w⟩ := u
    simp only [List.map_cons, List.nodup_cons] at h
    unfold putUpdate
    split
    · rename_i hk; subst hk; simpa using h
    · rename_i hk
      simp only [List.map_cons, List.nodup_cons]
      refine ⟨fun hm => ?_, ih h.2⟩
      rcases mem_map_putUpdate hm with e | e
      · exact hk e
      · exact h.1 e

/-- A request puts the item's value into the list. -/
theorem mem_putUpdate (i : Item) (v : Nat) (l : List (Item × Nat)) : (i, v) ∈ putUpdate i v l := by
  induction l with
  | nil => simp [putUpdate]
  | cons u l ih => unfold putUpdate; split <;> simp [ih]

theorem updatesOk_request {s : State} (h : s.cst.updatesOk) (i : Item) (v : Nat) : (s.request i v).cst.updatesOk :=
  putUpdate_nodup h

theorem updatesOk_kickEngine {s : State} (h : s.cst.updatesOk) : s.kickEngine.cst.updatesOk := by
  unfold State.kickEngine
  split
  · exact h
  · split
    · rename_i hu
      unfold Cst.updatesOk at h
      rw [hu] at h
      exact (List.nodup_cons.mp h).2
    · split
      · exact h
      · exact h

/-! ## The port (R163 to R165) -/

theorem portOk_setMode {x : Spt} (h : x.portOk) (d : Byte) : (x.setMode d).portOk := by
  refine ⟨h.1, fun hd => ?_⟩
  have hd' : d.getLsbD 0 = false := hd
  show x.rp = if (x.dual && !d.getLsbD 0) = true then x.rp else x.wp
  rw [hd']
  cases hx : x.dual
  · simpa [hx] using h.2 hx
  · simp

theorem portOk_loadPointer {x : Spt} (h : x.portOk) (d : Byte) : (x.loadPointer d).portOk := by
  refine ⟨h.1, fun hd => ?_⟩
  have hd' : x.dual = false := hd
  simp [Spt.loadPointer, hd', h.2 hd']

theorem portOk_advanceRead {x : Spt} (h : x.portOk) (inc : Bool) : (x.advanceRead inc).portOk := by
  unfold Spt.advanceRead
  split
  · refine ⟨h.1, fun hd => ?_⟩
    have hd' : x.dual = false := hd
    simp [hd']
  · exact h

theorem portOk_advanceWrite {x : Spt} (h : x.portOk) (inc : Bool) : (x.advanceWrite inc).portOk := by
  unfold Spt.advanceWrite
  split
  · refine ⟨h.1, fun hd => ?_⟩
    have hd' : x.dual = false := hd
    simp [hd']
  · exact h

theorem keptQueue_length (x : Spt) (e : Option Job) : (x.keptQueue e).length ≤ 1 := by
  unfold Spt.keptQueue
  split
  · simp only [List.length_take]; omega
  · simp

/-! ## The field inputs (R5, R10, R12, R13, R15) -/

theorem pushLast_length {α : Type} (n : Nat) (l : List α) (x : α) : (pushLast n l x).length ≤ n := by
  unfold pushLast
  simp only [List.length_drop, List.length_append, List.length_cons, List.length_nil]
  omega

theorem countBy_range {c d : Int} (h : -32767 ≤ c ∧ c ≤ 32767) : -32767 ≤ countBy c d ∧ countBy c d ≤ 32767 := by
  unfold countBy; split
  · assumption
  · exact h

theorem clampInt_range {x lo hi : Int} (h : lo ≤ hi) : lo ≤ clampInt x lo hi ∧ clampInt x lo hi ≤ hi := by
  unfold clampInt; omega

theorem clampNat_range {x lo hi : Nat} (h : lo ≤ hi) : lo ≤ clampNat x lo hi ∧ clampNat x lo hi ≤ hi := by
  unfold clampNat; omega

end Sys2Proof.Machine
end

