-- ==== Sys2Proof/Laws/State.lean ====
section
/-! SUPPORT. Read-after-write: what each update of State sets, and that it leaves every other field as it was. -/

namespace Sys2Proof.Machine

/-! ## Resets in force -/

theorem resetHeld_eq_true (s : State) : s.resetHeld = true ↔ s.resets.powerOn = true ∨ s.resets.resetN = true :=
  Bool.or_eq_true_iff

theorem resetHeld_congr {s t : State} (h : t.resets = s.resets) : t.resetHeld = s.resetHeld := by
  unfold State.resetHeld
  rw [h]

/-- What stays in force after a release is what was in force besides. -/
@[simp] theorem releaseReset_resets (s : State) (left : Resets) (pins : PinLevels) :
    (s.releaseReset left pins).resets = left := rfl
@[simp] theorem releaseReset_spt (s : State) (left : Resets) (pins : PinLevels) :
    (s.releaseReset left pins).spt = s.spt := rfl
@[simp] theorem releaseReset_cst (s : State) (left : Resets) (pins : PinLevels) :
    (s.releaseReset left pins).cst = s.cst := rfl
@[simp] theorem assertPowerOn_resets (s : State) : s.assertPowerOn.resets = { s.resets with powerOn := true } := rfl
@[simp] theorem assertResetN_resets (s : State) : s.assertResetN.resets = { s.resets with resetN := true } := rfl

/-! ## The setters of the blocks -/

@[simp] theorem setFiu_now (s : State) (x : Fiu) : (s.setFiu x).now = s.now := rfl
@[simp] theorem setFiu_draws (s : State) (x : Fiu) : (s.setFiu x).draws = s.draws := rfl
@[simp] theorem setFiu_pending (s : State) (x : Fiu) : (s.setFiu x).pending = s.pending := rfl
@[simp] theorem setFiu_signals (s : State) (x : Fiu) : (s.setFiu x).signals = s.signals := rfl
@[simp] theorem setFiu_life (s : State) (x : Fiu) : (s.setFiu x).life = s.life := rfl
@[simp] theorem setFiu_resets (s : State) (x : Fiu) : (s.setFiu x).resets = s.resets := rfl
@[simp] theorem setFiu_loadCause (s : State) (x : Fiu) : (s.setFiu x).loadCause = s.loadCause := rfl
@[simp] theorem setFiu_listenUntil (s : State) (x : Fiu) : (s.setFiu x).listenUntil = s.listenUntil := rfl
@[simp] theorem setFiu_running (s : State) (x : Fiu) : (s.setFiu x).running = s.running := rfl
@[simp] theorem setFiu_fiu (s : State) (x : Fiu) : (s.setFiu x).fiu = x := rfl
@[simp] theorem setFiu_liu (s : State) (x : Fiu) : (s.setFiu x).liu = s.liu := rfl
@[simp] theorem setFiu_svt (s : State) (x : Fiu) : (s.setFiu x).svt = s.svt := rfl
@[simp] theorem setFiu_inc (s : State) (x : Fiu) : (s.setFiu x).inc = s.inc := rfl
@[simp] theorem setFiu_tal (s : State) (x : Fiu) : (s.setFiu x).tal = s.tal := rfl
@[simp] theorem setFiu_fch (s : State) (x : Fiu) : (s.setFiu x).fch = s.fch := rfl
@[simp] theorem setFiu_sq (s : State) (x : Fiu) : (s.setFiu x).sq = s.sq := rfl
@[simp] theorem setFiu_ord (s : State) (x : Fiu) : (s.setFiu x).ord = s.ord := rfl
@[simp] theorem setFiu_spt (s : State) (x : Fiu) : (s.setFiu x).spt = s.spt := rfl
@[simp] theorem setFiu_cst (s : State) (x : Fiu) : (s.setFiu x).cst = s.cst := rfl

@[simp] theorem setLiu_now (s : State) (x : Liu) : (s.setLiu x).now = s.now := rfl
@[simp] theorem setLiu_draws (s : State) (x : Liu) : (s.setLiu x).draws = s.draws := rfl
@[simp] theorem setLiu_pending (s : State) (x : Liu) : (s.setLiu x).pending = s.pending := rfl
@[simp] theorem setLiu_signals (s : State) (x : Liu) : (s.setLiu x).signals = s.signals := rfl
@[simp] theorem setLiu_life (s : State) (x : Liu) : (s.setLiu x).life = s.life := rfl
@[simp] theorem setLiu_resets (s : State) (x : Liu) : (s.setLiu x).resets = s.resets := rfl
@[simp] theorem setLiu_loadCause (s : State) (x : Liu) : (s.setLiu x).loadCause = s.loadCause := rfl
@[simp] theorem setLiu_listenUntil (s : State) (x : Liu) : (s.setLiu x).listenUntil = s.listenUntil := rfl
@[simp] theorem setLiu_running (s : State) (x : Liu) : (s.setLiu x).running = s.running := rfl
@[simp] theorem setLiu_fiu (s : State) (x : Liu) : (s.setLiu x).fiu = s.fiu := rfl
@[simp] theorem setLiu_liu (s : State) (x : Liu) : (s.setLiu x).liu = x := rfl
@[simp] theorem setLiu_svt (s : State) (x : Liu) : (s.setLiu x).svt = s.svt := rfl
@[simp] theorem setLiu_inc (s : State) (x : Liu) : (s.setLiu x).inc = s.inc := rfl
@[simp] theorem setLiu_tal (s : State) (x : Liu) : (s.setLiu x).tal = s.tal := rfl
@[simp] theorem setLiu_fch (s : State) (x : Liu) : (s.setLiu x).fch = s.fch := rfl
@[simp] theorem setLiu_sq (s : State) (x : Liu) : (s.setLiu x).sq = s.sq := rfl
@[simp] theorem setLiu_ord (s : State) (x : Liu) : (s.setLiu x).ord = s.ord := rfl
@[simp] theorem setLiu_spt (s : State) (x : Liu) : (s.setLiu x).spt = s.spt := rfl
@[simp] theorem setLiu_cst (s : State) (x : Liu) : (s.setLiu x).cst = s.cst := rfl

@[simp] theorem setSvt_now (s : State) (x : Svt) : (s.setSvt x).now = s.now := rfl
@[simp] theorem setSvt_draws (s : State) (x : Svt) : (s.setSvt x).draws = s.draws := rfl
@[simp] theorem setSvt_pending (s : State) (x : Svt) : (s.setSvt x).pending = s.pending := rfl
@[simp] theorem setSvt_signals (s : State) (x : Svt) : (s.setSvt x).signals = s.signals := rfl
@[simp] theorem setSvt_life (s : State) (x : Svt) : (s.setSvt x).life = s.life := rfl
@[simp] theorem setSvt_resets (s : State) (x : Svt) : (s.setSvt x).resets = s.resets := rfl
@[simp] theorem setSvt_loadCause (s : State) (x : Svt) : (s.setSvt x).loadCause = s.loadCause := rfl
@[simp] theorem setSvt_listenUntil (s : State) (x : Svt) : (s.setSvt x).listenUntil = s.listenUntil := rfl
@[simp] theorem setSvt_running (s : State) (x : Svt) : (s.setSvt x).running = s.running := rfl
@[simp] theorem setSvt_fiu (s : State) (x : Svt) : (s.setSvt x).fiu = s.fiu := rfl
@[simp] theorem setSvt_liu (s : State) (x : Svt) : (s.setSvt x).liu = s.liu := rfl
@[simp] theorem setSvt_svt (s : State) (x : Svt) : (s.setSvt x).svt = x := rfl
@[simp] theorem setSvt_inc (s : State) (x : Svt) : (s.setSvt x).inc = s.inc := rfl
@[simp] theorem setSvt_tal (s : State) (x : Svt) : (s.setSvt x).tal = s.tal := rfl
@[simp] theorem setSvt_fch (s : State) (x : Svt) : (s.setSvt x).fch = s.fch := rfl
@[simp] theorem setSvt_sq (s : State) (x : Svt) : (s.setSvt x).sq = s.sq := rfl
@[simp] theorem setSvt_ord (s : State) (x : Svt) : (s.setSvt x).ord = s.ord := rfl
@[simp] theorem setSvt_spt (s : State) (x : Svt) : (s.setSvt x).spt = s.spt := rfl
@[simp] theorem setSvt_cst (s : State) (x : Svt) : (s.setSvt x).cst = s.cst := rfl

@[simp] theorem setInc_now (s : State) (x : Inc) : (s.setInc x).now = s.now := rfl
@[simp] theorem setInc_draws (s : State) (x : Inc) : (s.setInc x).draws = s.draws := rfl
@[simp] theorem setInc_pending (s : State) (x : Inc) : (s.setInc x).pending = s.pending := rfl
@[simp] theorem setInc_signals (s : State) (x : Inc) : (s.setInc x).signals = s.signals := rfl
@[simp] theorem setInc_life (s : State) (x : Inc) : (s.setInc x).life = s.life := rfl
@[simp] theorem setInc_resets (s : State) (x : Inc) : (s.setInc x).resets = s.resets := rfl
@[simp] theorem setInc_loadCause (s : State) (x : Inc) : (s.setInc x).loadCause = s.loadCause := rfl
@[simp] theorem setInc_listenUntil (s : State) (x : Inc) : (s.setInc x).listenUntil = s.listenUntil := rfl
@[simp] theorem setInc_running (s : State) (x : Inc) : (s.setInc x).running = s.running := rfl
@[simp] theorem setInc_fiu (s : State) (x : Inc) : (s.setInc x).fiu = s.fiu := rfl
@[simp] theorem setInc_liu (s : State) (x : Inc) : (s.setInc x).liu = s.liu := rfl
@[simp] theorem setInc_svt (s : State) (x : Inc) : (s.setInc x).svt = s.svt := rfl
@[simp] theorem setInc_inc (s : State) (x : Inc) : (s.setInc x).inc = x := rfl
@[simp] theorem setInc_tal (s : State) (x : Inc) : (s.setInc x).tal = s.tal := rfl
@[simp] theorem setInc_fch (s : State) (x : Inc) : (s.setInc x).fch = s.fch := rfl
@[simp] theorem setInc_sq (s : State) (x : Inc) : (s.setInc x).sq = s.sq := rfl
@[simp] theorem setInc_ord (s : State) (x : Inc) : (s.setInc x).ord = s.ord := rfl
@[simp] theorem setInc_spt (s : State) (x : Inc) : (s.setInc x).spt = s.spt := rfl
@[simp] theorem setInc_cst (s : State) (x : Inc) : (s.setInc x).cst = s.cst := rfl

@[simp] theorem setTal_now (s : State) (x : Tal) : (s.setTal x).now = s.now := rfl
@[simp] theorem setTal_draws (s : State) (x : Tal) : (s.setTal x).draws = s.draws := rfl
@[simp] theorem setTal_pending (s : State) (x : Tal) : (s.setTal x).pending = s.pending := rfl
@[simp] theorem setTal_signals (s : State) (x : Tal) : (s.setTal x).signals = s.signals := rfl
@[simp] theorem setTal_life (s : State) (x : Tal) : (s.setTal x).life = s.life := rfl
@[simp] theorem setTal_resets (s : State) (x : Tal) : (s.setTal x).resets = s.resets := rfl
@[simp] theorem setTal_loadCause (s : State) (x : Tal) : (s.setTal x).loadCause = s.loadCause := rfl
@[simp] theorem setTal_listenUntil (s : State) (x : Tal) : (s.setTal x).listenUntil = s.listenUntil := rfl
@[simp] theorem setTal_running (s : State) (x : Tal) : (s.setTal x).running = s.running := rfl
@[simp] theorem setTal_fiu (s : State) (x : Tal) : (s.setTal x).fiu = s.fiu := rfl
@[simp] theorem setTal_liu (s : State) (x : Tal) : (s.setTal x).liu = s.liu := rfl
@[simp] theorem setTal_svt (s : State) (x : Tal) : (s.setTal x).svt = s.svt := rfl
@[simp] theorem setTal_inc (s : State) (x : Tal) : (s.setTal x).inc = s.inc := rfl
@[simp] theorem setTal_tal (s : State) (x : Tal) : (s.setTal x).tal = x := rfl
@[simp] theorem setTal_fch (s : State) (x : Tal) : (s.setTal x).fch = s.fch := rfl
@[simp] theorem setTal_sq (s : State) (x : Tal) : (s.setTal x).sq = s.sq := rfl
@[simp] theorem setTal_ord (s : State) (x : Tal) : (s.setTal x).ord = s.ord := rfl
@[simp] theorem setTal_spt (s : State) (x : Tal) : (s.setTal x).spt = s.spt := rfl
@[simp] theorem setTal_cst (s : State) (x : Tal) : (s.setTal x).cst = s.cst := rfl

@[simp] theorem setFch_now (s : State) (x : Fch) : (s.setFch x).now = s.now := rfl
@[simp] theorem setFch_draws (s : State) (x : Fch) : (s.setFch x).draws = s.draws := rfl
@[simp] theorem setFch_pending (s : State) (x : Fch) : (s.setFch x).pending = s.pending := rfl
@[simp] theorem setFch_signals (s : State) (x : Fch) : (s.setFch x).signals = s.signals := rfl
@[simp] theorem setFch_life (s : State) (x : Fch) : (s.setFch x).life = s.life := rfl
@[simp] theorem setFch_resets (s : State) (x : Fch) : (s.setFch x).resets = s.resets := rfl
@[simp] theorem setFch_loadCause (s : State) (x : Fch) : (s.setFch x).loadCause = s.loadCause := rfl
@[simp] theorem setFch_listenUntil (s : State) (x : Fch) : (s.setFch x).listenUntil = s.listenUntil := rfl
@[simp] theorem setFch_running (s : State) (x : Fch) : (s.setFch x).running = s.running := rfl
@[simp] theorem setFch_fiu (s : State) (x : Fch) : (s.setFch x).fiu = s.fiu := rfl
@[simp] theorem setFch_liu (s : State) (x : Fch) : (s.setFch x).liu = s.liu := rfl
@[simp] theorem setFch_svt (s : State) (x : Fch) : (s.setFch x).svt = s.svt := rfl
@[simp] theorem setFch_inc (s : State) (x : Fch) : (s.setFch x).inc = s.inc := rfl
@[simp] theorem setFch_tal (s : State) (x : Fch) : (s.setFch x).tal = s.tal := rfl
@[simp] theorem setFch_fch (s : State) (x : Fch) : (s.setFch x).fch = x := rfl
@[simp] theorem setFch_sq (s : State) (x : Fch) : (s.setFch x).sq = s.sq := rfl
@[simp] theorem setFch_ord (s : State) (x : Fch) : (s.setFch x).ord = s.ord := rfl
@[simp] theorem setFch_spt (s : State) (x : Fch) : (s.setFch x).spt = s.spt := rfl
@[simp] theorem setFch_cst (s : State) (x : Fch) : (s.setFch x).cst = s.cst := rfl

@[simp] theorem setSq_now (s : State) (x : Sq) : (s.setSq x).now = s.now := rfl
@[simp] theorem setSq_draws (s : State) (x : Sq) : (s.setSq x).draws = s.draws := rfl
@[simp] theorem setSq_pending (s : State) (x : Sq) : (s.setSq x).pending = s.pending := rfl
@[simp] theorem setSq_signals (s : State) (x : Sq) : (s.setSq x).signals = s.signals := rfl
@[simp] theorem setSq_life (s : State) (x : Sq) : (s.setSq x).life = s.life := rfl
@[simp] theorem setSq_resets (s : State) (x : Sq) : (s.setSq x).resets = s.resets := rfl
@[simp] theorem setSq_loadCause (s : State) (x : Sq) : (s.setSq x).loadCause = s.loadCause := rfl
@[simp] theorem setSq_listenUntil (s : State) (x : Sq) : (s.setSq x).listenUntil = s.listenUntil := rfl
@[simp] theorem setSq_running (s : State) (x : Sq) : (s.setSq x).running = s.running := rfl
@[simp] theorem setSq_fiu (s : State) (x : Sq) : (s.setSq x).fiu = s.fiu := rfl
@[simp] theorem setSq_liu (s : State) (x : Sq) : (s.setSq x).liu = s.liu := rfl
@[simp] theorem setSq_svt (s : State) (x : Sq) : (s.setSq x).svt = s.svt := rfl
@[simp] theorem setSq_inc (s : State) (x : Sq) : (s.setSq x).inc = s.inc := rfl
@[simp] theorem setSq_tal (s : State) (x : Sq) : (s.setSq x).tal = s.tal := rfl
@[simp] theorem setSq_fch (s : State) (x : Sq) : (s.setSq x).fch = s.fch := rfl
@[simp] theorem setSq_sq (s : State) (x : Sq) : (s.setSq x).sq = x := rfl
@[simp] theorem setSq_ord (s : State) (x : Sq) : (s.setSq x).ord = s.ord := rfl
@[simp] theorem setSq_spt (s : State) (x : Sq) : (s.setSq x).spt = s.spt := rfl
@[simp] theorem setSq_cst (s : State) (x : Sq) : (s.setSq x).cst = s.cst := rfl

@[simp] theorem setOrd_now (s : State) (x : Ord) : (s.setOrd x).now = s.now := rfl
@[simp] theorem setOrd_draws (s : State) (x : Ord) : (s.setOrd x).draws = s.draws := rfl
@[simp] theorem setOrd_pending (s : State) (x : Ord) : (s.setOrd x).pending = s.pending := rfl
@[simp] theorem setOrd_signals (s : State) (x : Ord) : (s.setOrd x).signals = s.signals := rfl
@[simp] theorem setOrd_life (s : State) (x : Ord) : (s.setOrd x).life = s.life := rfl
@[simp] theorem setOrd_resets (s : State) (x : Ord) : (s.setOrd x).resets = s.resets := rfl
@[simp] theorem setOrd_loadCause (s : State) (x : Ord) : (s.setOrd x).loadCause = s.loadCause := rfl
@[simp] theorem setOrd_listenUntil (s : State) (x : Ord) : (s.setOrd x).listenUntil = s.listenUntil := rfl
@[simp] theorem setOrd_running (s : State) (x : Ord) : (s.setOrd x).running = s.running := rfl
@[simp] theorem setOrd_fiu (s : State) (x : Ord) : (s.setOrd x).fiu = s.fiu := rfl
@[simp] theorem setOrd_liu (s : State) (x : Ord) : (s.setOrd x).liu = s.liu := rfl
@[simp] theorem setOrd_svt (s : State) (x : Ord) : (s.setOrd x).svt = s.svt := rfl
@[simp] theorem setOrd_inc (s : State) (x : Ord) : (s.setOrd x).inc = s.inc := rfl
@[simp] theorem setOrd_tal (s : State) (x : Ord) : (s.setOrd x).tal = s.tal := rfl
@[simp] theorem setOrd_fch (s : State) (x : Ord) : (s.setOrd x).fch = s.fch := rfl
@[simp] theorem setOrd_sq (s : State) (x : Ord) : (s.setOrd x).sq = s.sq := rfl
@[simp] theorem setOrd_ord (s : State) (x : Ord) : (s.setOrd x).ord = x := rfl
@[simp] theorem setOrd_spt (s : State) (x : Ord) : (s.setOrd x).spt = s.spt := rfl
@[simp] theorem setOrd_cst (s : State) (x : Ord) : (s.setOrd x).cst = s.cst := rfl

@[simp] theorem setSpt_now (s : State) (x : Spt) : (s.setSpt x).now = s.now := rfl
@[simp] theorem setSpt_draws (s : State) (x : Spt) : (s.setSpt x).draws = s.draws := rfl
@[simp] theorem setSpt_pending (s : State) (x : Spt) : (s.setSpt x).pending = s.pending := rfl
@[simp] theorem setSpt_signals (s : State) (x : Spt) : (s.setSpt x).signals = s.signals := rfl
@[simp] theorem setSpt_life (s : State) (x : Spt) : (s.setSpt x).life = s.life := rfl
@[simp] theorem setSpt_resets (s : State) (x : Spt) : (s.setSpt x).resets = s.resets := rfl
@[simp] theorem setSpt_loadCause (s : State) (x : Spt) : (s.setSpt x).loadCause = s.loadCause := rfl
@[simp] theorem setSpt_listenUntil (s : State) (x : Spt) : (s.setSpt x).listenUntil = s.listenUntil := rfl
@[simp] theorem setSpt_running (s : State) (x : Spt) : (s.setSpt x).running = s.running := rfl
@[simp] theorem setSpt_fiu (s : State) (x : Spt) : (s.setSpt x).fiu = s.fiu := rfl
@[simp] theorem setSpt_liu (s : State) (x : Spt) : (s.setSpt x).liu = s.liu := rfl
@[simp] theorem setSpt_svt (s : State) (x : Spt) : (s.setSpt x).svt = s.svt := rfl
@[simp] theorem setSpt_inc (s : State) (x : Spt) : (s.setSpt x).inc = s.inc := rfl
@[simp] theorem setSpt_tal (s : State) (x : Spt) : (s.setSpt x).tal = s.tal := rfl
@[simp] theorem setSpt_fch (s : State) (x : Spt) : (s.setSpt x).fch = s.fch := rfl
@[simp] theorem setSpt_sq (s : State) (x : Spt) : (s.setSpt x).sq = s.sq := rfl
@[simp] theorem setSpt_ord (s : State) (x : Spt) : (s.setSpt x).ord = s.ord := rfl
@[simp] theorem setSpt_spt (s : State) (x : Spt) : (s.setSpt x).spt = x := rfl
@[simp] theorem setSpt_cst (s : State) (x : Spt) : (s.setSpt x).cst = s.cst := rfl

@[simp] theorem setCst_now (s : State) (x : Cst) : (s.setCst x).now = s.now := rfl
@[simp] theorem setCst_draws (s : State) (x : Cst) : (s.setCst x).draws = s.draws := rfl
@[simp] theorem setCst_pending (s : State) (x : Cst) : (s.setCst x).pending = s.pending := rfl
@[simp] theorem setCst_signals (s : State) (x : Cst) : (s.setCst x).signals = s.signals := rfl
@[simp] theorem setCst_life (s : State) (x : Cst) : (s.setCst x).life = s.life := rfl
@[simp] theorem setCst_resets (s : State) (x : Cst) : (s.setCst x).resets = s.resets := rfl
@[simp] theorem setCst_loadCause (s : State) (x : Cst) : (s.setCst x).loadCause = s.loadCause := rfl
@[simp] theorem setCst_listenUntil (s : State) (x : Cst) : (s.setCst x).listenUntil = s.listenUntil := rfl
@[simp] theorem setCst_running (s : State) (x : Cst) : (s.setCst x).running = s.running := rfl
@[simp] theorem setCst_fiu (s : State) (x : Cst) : (s.setCst x).fiu = s.fiu := rfl
@[simp] theorem setCst_liu (s : State) (x : Cst) : (s.setCst x).liu = s.liu := rfl
@[simp] theorem setCst_svt (s : State) (x : Cst) : (s.setCst x).svt = s.svt := rfl
@[simp] theorem setCst_inc (s : State) (x : Cst) : (s.setCst x).inc = s.inc := rfl
@[simp] theorem setCst_tal (s : State) (x : Cst) : (s.setCst x).tal = s.tal := rfl
@[simp] theorem setCst_fch (s : State) (x : Cst) : (s.setCst x).fch = s.fch := rfl
@[simp] theorem setCst_sq (s : State) (x : Cst) : (s.setCst x).sq = s.sq := rfl
@[simp] theorem setCst_ord (s : State) (x : Cst) : (s.setCst x).ord = s.ord := rfl
@[simp] theorem setCst_spt (s : State) (x : Cst) : (s.setCst x).spt = s.spt := rfl
@[simp] theorem setCst_cst (s : State) (x : Cst) : (s.setCst x).cst = x := rfl

@[simp] theorem setSignals_now (s : State) (x : Signals) : (s.setSignals x).now = s.now := rfl
@[simp] theorem setSignals_draws (s : State) (x : Signals) : (s.setSignals x).draws = s.draws := rfl
@[simp] theorem setSignals_pending (s : State) (x : Signals) : (s.setSignals x).pending = s.pending := rfl
@[simp] theorem setSignals_signals (s : State) (x : Signals) : (s.setSignals x).signals = x := rfl
@[simp] theorem setSignals_life (s : State) (x : Signals) : (s.setSignals x).life = s.life := rfl
@[simp] theorem setSignals_resets (s : State) (x : Signals) : (s.setSignals x).resets = s.resets := rfl
@[simp] theorem setSignals_loadCause (s : State) (x : Signals) : (s.setSignals x).loadCause = s.loadCause := rfl
@[simp] theorem setSignals_listenUntil (s : State) (x : Signals) : (s.setSignals x).listenUntil = s.listenUntil := rfl
@[simp] theorem setSignals_running (s : State) (x : Signals) : (s.setSignals x).running = s.running := rfl
@[simp] theorem setSignals_fiu (s : State) (x : Signals) : (s.setSignals x).fiu = s.fiu := rfl
@[simp] theorem setSignals_liu (s : State) (x : Signals) : (s.setSignals x).liu = s.liu := rfl
@[simp] theorem setSignals_svt (s : State) (x : Signals) : (s.setSignals x).svt = s.svt := rfl
@[simp] theorem setSignals_inc (s : State) (x : Signals) : (s.setSignals x).inc = s.inc := rfl
@[simp] theorem setSignals_tal (s : State) (x : Signals) : (s.setSignals x).tal = s.tal := rfl
@[simp] theorem setSignals_fch (s : State) (x : Signals) : (s.setSignals x).fch = s.fch := rfl
@[simp] theorem setSignals_sq (s : State) (x : Signals) : (s.setSignals x).sq = s.sq := rfl
@[simp] theorem setSignals_ord (s : State) (x : Signals) : (s.setSignals x).ord = s.ord := rfl
@[simp] theorem setSignals_spt (s : State) (x : Signals) : (s.setSignals x).spt = s.spt := rfl
@[simp] theorem setSignals_cst (s : State) (x : Signals) : (s.setSignals x).cst = s.cst := rfl

@[simp] theorem setDraws_now (s : State) (x : Nat) : (s.setDraws x).now = s.now := rfl
@[simp] theorem setDraws_draws (s : State) (x : Nat) : (s.setDraws x).draws = x := rfl
@[simp] theorem setDraws_pending (s : State) (x : Nat) : (s.setDraws x).pending = s.pending := rfl
@[simp] theorem setDraws_signals (s : State) (x : Nat) : (s.setDraws x).signals = s.signals := rfl
@[simp] theorem setDraws_life (s : State) (x : Nat) : (s.setDraws x).life = s.life := rfl
@[simp] theorem setDraws_resets (s : State) (x : Nat) : (s.setDraws x).resets = s.resets := rfl
@[simp] theorem setDraws_loadCause (s : State) (x : Nat) : (s.setDraws x).loadCause = s.loadCause := rfl
@[simp] theorem setDraws_listenUntil (s : State) (x : Nat) : (s.setDraws x).listenUntil = s.listenUntil := rfl
@[simp] theorem setDraws_running (s : State) (x : Nat) : (s.setDraws x).running = s.running := rfl
@[simp] theorem setDraws_fiu (s : State) (x : Nat) : (s.setDraws x).fiu = s.fiu := rfl
@[simp] theorem setDraws_liu (s : State) (x : Nat) : (s.setDraws x).liu = s.liu := rfl
@[simp] theorem setDraws_svt (s : State) (x : Nat) : (s.setDraws x).svt = s.svt := rfl
@[simp] theorem setDraws_inc (s : State) (x : Nat) : (s.setDraws x).inc = s.inc := rfl
@[simp] theorem setDraws_tal (s : State) (x : Nat) : (s.setDraws x).tal = s.tal := rfl
@[simp] theorem setDraws_fch (s : State) (x : Nat) : (s.setDraws x).fch = s.fch := rfl
@[simp] theorem setDraws_sq (s : State) (x : Nat) : (s.setDraws x).sq = s.sq := rfl
@[simp] theorem setDraws_ord (s : State) (x : Nat) : (s.setDraws x).ord = s.ord := rfl
@[simp] theorem setDraws_spt (s : State) (x : Nat) : (s.setDraws x).spt = s.spt := rfl
@[simp] theorem setDraws_cst (s : State) (x : Nat) : (s.setDraws x).cst = s.cst := rfl

/-! ## Modifications of one register of a block -/

@[simp] theorem modFan_now (s : State) (f : FanId) (g : Fan → Fan) : (s.modFan f g).now = s.now := rfl
@[simp] theorem modFan_draws (s : State) (f : FanId) (g : Fan → Fan) : (s.modFan f g).draws = s.draws := rfl
@[simp] theorem modFan_pending (s : State) (f : FanId) (g : Fan → Fan) : (s.modFan f g).pending = s.pending := rfl
@[simp] theorem modFan_signals (s : State) (f : FanId) (g : Fan → Fan) : (s.modFan f g).signals = s.signals := rfl
@[simp] theorem modFan_life (s : State) (f : FanId) (g : Fan → Fan) : (s.modFan f g).life = s.life := rfl
@[simp] theorem modFan_resets (s : State) (f : FanId) (g : Fan → Fan) : (s.modFan f g).resets = s.resets := rfl
@[simp] theorem modFan_loadCause (s : State) (f : FanId) (g : Fan → Fan) : (s.modFan f g).loadCause = s.loadCause := rfl
@[simp] theorem modFan_listenUntil (s : State) (f : FanId) (g : Fan → Fan) : (s.modFan f g).listenUntil = s.listenUntil := rfl
@[simp] theorem modFan_running (s : State) (f : FanId) (g : Fan → Fan) : (s.modFan f g).running = s.running := rfl
@[simp] theorem modFan_fiu (s : State) (f : FanId) (g : Fan → Fan) : (s.modFan f g).fiu = s.fiu := rfl
@[simp] theorem modFan_liu (s : State) (f : FanId) (g : Fan → Fan) : (s.modFan f g).liu = s.liu := rfl
@[simp] theorem modFan_svt (s : State) (f : FanId) (g : Fan → Fan) : (s.modFan f g).svt = s.svt := rfl
@[simp] theorem modFan_inc (s : State) (f : FanId) (g : Fan → Fan) : (s.modFan f g).inc = s.inc := rfl
@[simp] theorem modFan_tal (s : State) (f : FanId) (g : Fan → Fan) : (s.modFan f g).tal = s.tal := rfl
@[simp] theorem modFan_sq (s : State) (f : FanId) (g : Fan → Fan) : (s.modFan f g).sq = s.sq := rfl
@[simp] theorem modFan_ord (s : State) (f : FanId) (g : Fan → Fan) : (s.modFan f g).ord = s.ord := rfl
@[simp] theorem modFan_spt (s : State) (f : FanId) (g : Fan → Fan) : (s.modFan f g).spt = s.spt := rfl
@[simp] theorem modFan_cst (s : State) (f : FanId) (g : Fan → Fan) : (s.modFan f g).cst = s.cst := rfl

@[simp] theorem modFanIn_now (s : State) (f : FanId) (g : FanInput → FanInput) : (s.modFanIn f g).now = s.now := rfl
@[simp] theorem modFanIn_draws (s : State) (f : FanId) (g : FanInput → FanInput) : (s.modFanIn f g).draws = s.draws := rfl
@[simp] theorem modFanIn_pending (s : State) (f : FanId) (g : FanInput → FanInput) : (s.modFanIn f g).pending = s.pending := rfl
@[simp] theorem modFanIn_signals (s : State) (f : FanId) (g : FanInput → FanInput) : (s.modFanIn f g).signals = s.signals := rfl
@[simp] theorem modFanIn_life (s : State) (f : FanId) (g : FanInput → FanInput) : (s.modFanIn f g).life = s.life := rfl
@[simp] theorem modFanIn_resets (s : State) (f : FanId) (g : FanInput → FanInput) : (s.modFanIn f g).resets = s.resets := rfl
@[simp] theorem modFanIn_loadCause (s : State) (f : FanId) (g : FanInput → FanInput) : (s.modFanIn f g).loadCause = s.loadCause := rfl
@[simp] theorem modFanIn_listenUntil (s : State) (f : FanId) (g : FanInput → FanInput) : (s.modFanIn f g).listenUntil = s.listenUntil := rfl
@[simp] theorem modFanIn_running (s : State) (f : FanId) (g : FanInput → FanInput) : (s.modFanIn f g).running = s.running := rfl
@[simp] theorem modFanIn_liu (s : State) (f : FanId) (g : FanInput → FanInput) : (s.modFanIn f g).liu = s.liu := rfl
@[simp] theorem modFanIn_svt (s : State) (f : FanId) (g : FanInput → FanInput) : (s.modFanIn f g).svt = s.svt := rfl
@[simp] theorem modFanIn_inc (s : State) (f : FanId) (g : FanInput → FanInput) : (s.modFanIn f g).inc = s.inc := rfl
@[simp] theorem modFanIn_tal (s : State) (f : FanId) (g : FanInput → FanInput) : (s.modFanIn f g).tal = s.tal := rfl
@[simp] theorem modFanIn_fch (s : State) (f : FanId) (g : FanInput → FanInput) : (s.modFanIn f g).fch = s.fch := rfl
@[simp] theorem modFanIn_sq (s : State) (f : FanId) (g : FanInput → FanInput) : (s.modFanIn f g).sq = s.sq := rfl
@[simp] theorem modFanIn_ord (s : State) (f : FanId) (g : FanInput → FanInput) : (s.modFanIn f g).ord = s.ord := rfl
@[simp] theorem modFanIn_spt (s : State) (f : FanId) (g : FanInput → FanInput) : (s.modFanIn f g).spt = s.spt := rfl
@[simp] theorem modFanIn_cst (s : State) (f : FanId) (g : FanInput → FanInput) : (s.modFanIn f g).cst = s.cst := rfl

@[simp] theorem modEntry_now (s : State) (k : Nat) (g : Entry → Entry) : (s.modEntry k g).now = s.now := rfl
@[simp] theorem modEntry_draws (s : State) (k : Nat) (g : Entry → Entry) : (s.modEntry k g).draws = s.draws := rfl
@[simp] theorem modEntry_pending (s : State) (k : Nat) (g : Entry → Entry) : (s.modEntry k g).pending = s.pending := rfl
@[simp] theorem modEntry_signals (s : State) (k : Nat) (g : Entry → Entry) : (s.modEntry k g).signals = s.signals := rfl
@[simp] theorem modEntry_life (s : State) (k : Nat) (g : Entry → Entry) : (s.modEntry k g).life = s.life := rfl
@[simp] theorem modEntry_resets (s : State) (k : Nat) (g : Entry → Entry) : (s.modEntry k g).resets = s.resets := rfl
@[simp] theorem modEntry_loadCause (s : State) (k : Nat) (g : Entry → Entry) : (s.modEntry k g).loadCause = s.loadCause := rfl
@[simp] theorem modEntry_listenUntil (s : State) (k : Nat) (g : Entry → Entry) : (s.modEntry k g).listenUntil = s.listenUntil := rfl
@[simp] theorem modEntry_running (s : State) (k : Nat) (g : Entry → Entry) : (s.modEntry k g).running = s.running := rfl
@[simp] theorem modEntry_fiu (s : State) (k : Nat) (g : Entry → Entry) : (s.modEntry k g).fiu = s.fiu := rfl
@[simp] theorem modEntry_liu (s : State) (k : Nat) (g : Entry → Entry) : (s.modEntry k g).liu = s.liu := rfl
@[simp] theorem modEntry_inc (s : State) (k : Nat) (g : Entry → Entry) : (s.modEntry k g).inc = s.inc := rfl
@[simp] theorem modEntry_tal (s : State) (k : Nat) (g : Entry → Entry) : (s.modEntry k g).tal = s.tal := rfl
@[simp] theorem modEntry_fch (s : State) (k : Nat) (g : Entry → Entry) : (s.modEntry k g).fch = s.fch := rfl
@[simp] theorem modEntry_sq (s : State) (k : Nat) (g : Entry → Entry) : (s.modEntry k g).sq = s.sq := rfl
@[simp] theorem modEntry_ord (s : State) (k : Nat) (g : Entry → Entry) : (s.modEntry k g).ord = s.ord := rfl
@[simp] theorem modEntry_spt (s : State) (k : Nat) (g : Entry → Entry) : (s.modEntry k g).spt = s.spt := rfl
@[simp] theorem modEntry_cst (s : State) (k : Nat) (g : Entry → Entry) : (s.modEntry k g).cst = s.cst := rfl

@[simp] theorem modGateway_now (s : State) (k : Nat) (g : Gateway → Gateway) : (s.modGateway k g).now = s.now := rfl
@[simp] theorem modGateway_draws (s : State) (k : Nat) (g : Gateway → Gateway) : (s.modGateway k g).draws = s.draws := rfl
@[simp] theorem modGateway_pending (s : State) (k : Nat) (g : Gateway → Gateway) : (s.modGateway k g).pending = s.pending := rfl
@[simp] theorem modGateway_signals (s : State) (k : Nat) (g : Gateway → Gateway) : (s.modGateway k g).signals = s.signals := rfl
@[simp] theorem modGateway_life (s : State) (k : Nat) (g : Gateway → Gateway) : (s.modGateway k g).life = s.life := rfl
@[simp] theorem modGateway_resets (s : State) (k : Nat) (g : Gateway → Gateway) : (s.modGateway k g).resets = s.resets := rfl
@[simp] theorem modGateway_loadCause (s : State) (k : Nat) (g : Gateway → Gateway) : (s.modGateway k g).loadCause = s.loadCause := rfl
@[simp] theorem modGateway_listenUntil (s : State) (k : Nat) (g : Gateway → Gateway) : (s.modGateway k g).listenUntil = s.listenUntil := rfl
@[simp] theorem modGateway_running (s : State) (k : Nat) (g : Gateway → Gateway) : (s.modGateway k g).running = s.running := rfl
@[simp] theorem modGateway_fiu (s : State) (k : Nat) (g : Gateway → Gateway) : (s.modGateway k g).fiu = s.fiu := rfl
@[simp] theorem modGateway_liu (s : State) (k : Nat) (g : Gateway → Gateway) : (s.modGateway k g).liu = s.liu := rfl
@[simp] theorem modGateway_inc (s : State) (k : Nat) (g : Gateway → Gateway) : (s.modGateway k g).inc = s.inc := rfl
@[simp] theorem modGateway_tal (s : State) (k : Nat) (g : Gateway → Gateway) : (s.modGateway k g).tal = s.tal := rfl
@[simp] theorem modGateway_fch (s : State) (k : Nat) (g : Gateway → Gateway) : (s.modGateway k g).fch = s.fch := rfl
@[simp] theorem modGateway_sq (s : State) (k : Nat) (g : Gateway → Gateway) : (s.modGateway k g).sq = s.sq := rfl
@[simp] theorem modGateway_ord (s : State) (k : Nat) (g : Gateway → Gateway) : (s.modGateway k g).ord = s.ord := rfl
@[simp] theorem modGateway_spt (s : State) (k : Nat) (g : Gateway → Gateway) : (s.modGateway k g).spt = s.spt := rfl
@[simp] theorem modGateway_cst (s : State) (k : Nat) (g : Gateway → Gateway) : (s.modGateway k g).cst = s.cst := rfl

@[simp] theorem setLine_now (s : State) (l : LineId) (x : Line) : (s.setLine l x).now = s.now := by cases l <;> rfl
@[simp] theorem setLine_draws (s : State) (l : LineId) (x : Line) : (s.setLine l x).draws = s.draws := by cases l <;> rfl
@[simp] theorem setLine_pending (s : State) (l : LineId) (x : Line) : (s.setLine l x).pending = s.pending := by cases l <;> rfl
@[simp] theorem setLine_signals (s : State) (l : LineId) (x : Line) : (s.setLine l x).signals = s.signals := by cases l <;> rfl
@[simp] theorem setLine_life (s : State) (l : LineId) (x : Line) : (s.setLine l x).life = s.life := by cases l <;> rfl
@[simp] theorem setLine_resets (s : State) (l : LineId) (x : Line) : (s.setLine l x).resets = s.resets := by cases l <;> rfl
@[simp] theorem setLine_loadCause (s : State) (l : LineId) (x : Line) : (s.setLine l x).loadCause = s.loadCause := by cases l <;> rfl
@[simp] theorem setLine_listenUntil (s : State) (l : LineId) (x : Line) : (s.setLine l x).listenUntil = s.listenUntil := by cases l <;> rfl
@[simp] theorem setLine_running (s : State) (l : LineId) (x : Line) : (s.setLine l x).running = s.running := by cases l <;> rfl
@[simp] theorem setLine_fiu (s : State) (l : LineId) (x : Line) : (s.setLine l x).fiu = s.fiu := by cases l <;> rfl
@[simp] theorem setLine_svt (s : State) (l : LineId) (x : Line) : (s.setLine l x).svt = s.svt := by cases l <;> rfl
@[simp] theorem setLine_inc (s : State) (l : LineId) (x : Line) : (s.setLine l x).inc = s.inc := by cases l <;> rfl
@[simp] theorem setLine_tal (s : State) (l : LineId) (x : Line) : (s.setLine l x).tal = s.tal := by cases l <;> rfl
@[simp] theorem setLine_fch (s : State) (l : LineId) (x : Line) : (s.setLine l x).fch = s.fch := by cases l <;> rfl
@[simp] theorem setLine_sq (s : State) (l : LineId) (x : Line) : (s.setLine l x).sq = s.sq := by cases l <;> rfl
@[simp] theorem setLine_ord (s : State) (l : LineId) (x : Line) : (s.setLine l x).ord = s.ord := by cases l <;> rfl
@[simp] theorem setLine_spt (s : State) (l : LineId) (x : Line) : (s.setLine l x).spt = s.spt := by cases l <;> rfl
@[simp] theorem setLine_cst (s : State) (l : LineId) (x : Line) : (s.setLine l x).cst = s.cst := by cases l <;> rfl

@[simp] theorem modLine_now (s : State) (l : LineId) (g : Line → Line) : (s.modLine l g).now = s.now := by cases l <;> rfl
@[simp] theorem modLine_draws (s : State) (l : LineId) (g : Line → Line) : (s.modLine l g).draws = s.draws := by cases l <;> rfl
@[simp] theorem modLine_pending (s : State) (l : LineId) (g : Line → Line) : (s.modLine l g).pending = s.pending := by cases l <;> rfl
@[simp] theorem modLine_signals (s : State) (l : LineId) (g : Line → Line) : (s.modLine l g).signals = s.signals := by cases l <;> rfl
@[simp] theorem modLine_life (s : State) (l : LineId) (g : Line → Line) : (s.modLine l g).life = s.life := by cases l <;> rfl
@[simp] theorem modLine_resets (s : State) (l : LineId) (g : Line → Line) : (s.modLine l g).resets = s.resets := by cases l <;> rfl
@[simp] theorem modLine_loadCause (s : State) (l : LineId) (g : Line → Line) : (s.modLine l g).loadCause = s.loadCause := by cases l <;> rfl
@[simp] theorem modLine_listenUntil (s : State) (l : LineId) (g : Line → Line) : (s.modLine l g).listenUntil = s.listenUntil := by cases l <;> rfl
@[simp] theorem modLine_running (s : State) (l : LineId) (g : Line → Line) : (s.modLine l g).running = s.running := by cases l <;> rfl
@[simp] theorem modLine_fiu (s : State) (l : LineId) (g : Line → Line) : (s.modLine l g).fiu = s.fiu := by cases l <;> rfl
@[simp] theorem modLine_svt (s : State) (l : LineId) (g : Line → Line) : (s.modLine l g).svt = s.svt := by cases l <;> rfl
@[simp] theorem modLine_inc (s : State) (l : LineId) (g : Line → Line) : (s.modLine l g).inc = s.inc := by cases l <;> rfl
@[simp] theorem modLine_tal (s : State) (l : LineId) (g : Line → Line) : (s.modLine l g).tal = s.tal := by cases l <;> rfl
@[simp] theorem modLine_fch (s : State) (l : LineId) (g : Line → Line) : (s.modLine l g).fch = s.fch := by cases l <;> rfl
@[simp] theorem modLine_sq (s : State) (l : LineId) (g : Line → Line) : (s.modLine l g).sq = s.sq := by cases l <;> rfl
@[simp] theorem modLine_ord (s : State) (l : LineId) (g : Line → Line) : (s.modLine l g).ord = s.ord := by cases l <;> rfl
@[simp] theorem modLine_spt (s : State) (l : LineId) (g : Line → Line) : (s.modLine l g).spt = s.spt := by cases l <;> rfl
@[simp] theorem modLine_cst (s : State) (l : LineId) (g : Line → Line) : (s.modLine l g).cst = s.cst := by cases l <;> rfl

@[simp] theorem touchLine_now (s : State) (l : LineId) (t : Nat) : (s.touchLine l t).now = s.now := by cases l <;> rfl
@[simp] theorem touchLine_draws (s : State) (l : LineId) (t : Nat) : (s.touchLine l t).draws = s.draws := by cases l <;> rfl
@[simp] theorem touchLine_pending (s : State) (l : LineId) (t : Nat) : (s.touchLine l t).pending = s.pending := by cases l <;> rfl
@[simp] theorem touchLine_signals (s : State) (l : LineId) (t : Nat) : (s.touchLine l t).signals = s.signals := by cases l <;> rfl
@[simp] theorem touchLine_life (s : State) (l : LineId) (t : Nat) : (s.touchLine l t).life = s.life := by cases l <;> rfl
@[simp] theorem touchLine_resets (s : State) (l : LineId) (t : Nat) : (s.touchLine l t).resets = s.resets := by cases l <;> rfl
@[simp] theorem touchLine_loadCause (s : State) (l : LineId) (t : Nat) : (s.touchLine l t).loadCause = s.loadCause := by cases l <;> rfl
@[simp] theorem touchLine_listenUntil (s : State) (l : LineId) (t : Nat) : (s.touchLine l t).listenUntil = s.listenUntil := by cases l <;> rfl
@[simp] theorem touchLine_running (s : State) (l : LineId) (t : Nat) : (s.touchLine l t).running = s.running := by cases l <;> rfl
@[simp] theorem touchLine_fiu (s : State) (l : LineId) (t : Nat) : (s.touchLine l t).fiu = s.fiu := by cases l <;> rfl
@[simp] theorem touchLine_svt (s : State) (l : LineId) (t : Nat) : (s.touchLine l t).svt = s.svt := by cases l <;> rfl
@[simp] theorem touchLine_inc (s : State) (l : LineId) (t : Nat) : (s.touchLine l t).inc = s.inc := by cases l <;> rfl
@[simp] theorem touchLine_tal (s : State) (l : LineId) (t : Nat) : (s.touchLine l t).tal = s.tal := by cases l <;> rfl
@[simp] theorem touchLine_fch (s : State) (l : LineId) (t : Nat) : (s.touchLine l t).fch = s.fch := by cases l <;> rfl
@[simp] theorem touchLine_sq (s : State) (l : LineId) (t : Nat) : (s.touchLine l t).sq = s.sq := by cases l <;> rfl
@[simp] theorem touchLine_ord (s : State) (l : LineId) (t : Nat) : (s.touchLine l t).ord = s.ord := by cases l <;> rfl
@[simp] theorem touchLine_spt (s : State) (l : LineId) (t : Nat) : (s.touchLine l t).spt = s.spt := by cases l <;> rfl
@[simp] theorem touchLine_cst (s : State) (l : LineId) (t : Nat) : (s.touchLine l t).cst = s.cst := by cases l <;> rfl

@[simp] theorem request_now (s : State) (i : Item) (v : Nat) : (s.request i v).now = s.now := rfl
@[simp] theorem request_draws (s : State) (i : Item) (v : Nat) : (s.request i v).draws = s.draws := rfl
@[simp] theorem request_pending (s : State) (i : Item) (v : Nat) : (s.request i v).pending = s.pending := rfl
@[simp] theorem request_signals (s : State) (i : Item) (v : Nat) : (s.request i v).signals = s.signals := rfl
@[simp] theorem request_life (s : State) (i : Item) (v : Nat) : (s.request i v).life = s.life := rfl
@[simp] theorem request_resets (s : State) (i : Item) (v : Nat) : (s.request i v).resets = s.resets := rfl
@[simp] theorem request_loadCause (s : State) (i : Item) (v : Nat) : (s.request i v).loadCause = s.loadCause := rfl
@[simp] theorem request_listenUntil (s : State) (i : Item) (v : Nat) : (s.request i v).listenUntil = s.listenUntil := rfl
@[simp] theorem request_running (s : State) (i : Item) (v : Nat) : (s.request i v).running = s.running := rfl
@[simp] theorem request_fiu (s : State) (i : Item) (v : Nat) : (s.request i v).fiu = s.fiu := rfl
@[simp] theorem request_liu (s : State) (i : Item) (v : Nat) : (s.request i v).liu = s.liu := rfl
@[simp] theorem request_svt (s : State) (i : Item) (v : Nat) : (s.request i v).svt = s.svt := rfl
@[simp] theorem request_inc (s : State) (i : Item) (v : Nat) : (s.request i v).inc = s.inc := rfl
@[simp] theorem request_tal (s : State) (i : Item) (v : Nat) : (s.request i v).tal = s.tal := rfl
@[simp] theorem request_fch (s : State) (i : Item) (v : Nat) : (s.request i v).fch = s.fch := rfl
@[simp] theorem request_sq (s : State) (i : Item) (v : Nat) : (s.request i v).sq = s.sq := rfl
@[simp] theorem request_ord (s : State) (i : Item) (v : Nat) : (s.request i v).ord = s.ord := rfl
@[simp] theorem request_spt (s : State) (i : Item) (v : Nat) : (s.request i v).spt = s.spt := rfl

@[simp] theorem wantPlan_now (s : State) : (s.wantPlan).now = s.now := rfl
@[simp] theorem wantPlan_draws (s : State) : (s.wantPlan).draws = s.draws := rfl
@[simp] theorem wantPlan_pending (s : State) : (s.wantPlan).pending = s.pending := rfl
@[simp] theorem wantPlan_life (s : State) : (s.wantPlan).life = s.life := rfl
@[simp] theorem wantPlan_resets (s : State) : (s.wantPlan).resets = s.resets := rfl
@[simp] theorem wantPlan_loadCause (s : State) : (s.wantPlan).loadCause = s.loadCause := rfl
@[simp] theorem wantPlan_listenUntil (s : State) : (s.wantPlan).listenUntil = s.listenUntil := rfl
@[simp] theorem wantPlan_running (s : State) : (s.wantPlan).running = s.running := rfl
@[simp] theorem wantPlan_fiu (s : State) : (s.wantPlan).fiu = s.fiu := rfl
@[simp] theorem wantPlan_liu (s : State) : (s.wantPlan).liu = s.liu := rfl
@[simp] theorem wantPlan_svt (s : State) : (s.wantPlan).svt = s.svt := rfl
@[simp] theorem wantPlan_inc (s : State) : (s.wantPlan).inc = s.inc := rfl
@[simp] theorem wantPlan_tal (s : State) : (s.wantPlan).tal = s.tal := rfl
@[simp] theorem wantPlan_fch (s : State) : (s.wantPlan).fch = s.fch := rfl
@[simp] theorem wantPlan_sq (s : State) : (s.wantPlan).sq = s.sq := rfl
@[simp] theorem wantPlan_ord (s : State) : (s.wantPlan).ord = s.ord := rfl
@[simp] theorem wantPlan_spt (s : State) : (s.wantPlan).spt = s.spt := rfl
@[simp] theorem wantPlan_cst (s : State) : (s.wantPlan).cst = s.cst := rfl

@[simp] theorem wantAvail_now (s : State) : (s.wantAvail).now = s.now := rfl
@[simp] theorem wantAvail_draws (s : State) : (s.wantAvail).draws = s.draws := rfl
@[simp] theorem wantAvail_pending (s : State) : (s.wantAvail).pending = s.pending := rfl
@[simp] theorem wantAvail_life (s : State) : (s.wantAvail).life = s.life := rfl
@[simp] theorem wantAvail_resets (s : State) : (s.wantAvail).resets = s.resets := rfl
@[simp] theorem wantAvail_loadCause (s : State) : (s.wantAvail).loadCause = s.loadCause := rfl
@[simp] theorem wantAvail_listenUntil (s : State) : (s.wantAvail).listenUntil = s.listenUntil := rfl
@[simp] theorem wantAvail_running (s : State) : (s.wantAvail).running = s.running := rfl
@[simp] theorem wantAvail_fiu (s : State) : (s.wantAvail).fiu = s.fiu := rfl
@[simp] theorem wantAvail_liu (s : State) : (s.wantAvail).liu = s.liu := rfl
@[simp] theorem wantAvail_svt (s : State) : (s.wantAvail).svt = s.svt := rfl
@[simp] theorem wantAvail_inc (s : State) : (s.wantAvail).inc = s.inc := rfl
@[simp] theorem wantAvail_tal (s : State) : (s.wantAvail).tal = s.tal := rfl
@[simp] theorem wantAvail_fch (s : State) : (s.wantAvail).fch = s.fch := rfl
@[simp] theorem wantAvail_sq (s : State) : (s.wantAvail).sq = s.sq := rfl
@[simp] theorem wantAvail_ord (s : State) : (s.wantAvail).ord = s.ord := rfl
@[simp] theorem wantAvail_spt (s : State) : (s.wantAvail).spt = s.spt := rfl
@[simp] theorem wantAvail_cst (s : State) : (s.wantAvail).cst = s.cst := rfl

@[simp] theorem wantIncident_now (s : State) : (s.wantIncident).now = s.now := rfl
@[simp] theorem wantIncident_draws (s : State) : (s.wantIncident).draws = s.draws := rfl
@[simp] theorem wantIncident_pending (s : State) : (s.wantIncident).pending = s.pending := rfl
@[simp] theorem wantIncident_life (s : State) : (s.wantIncident).life = s.life := rfl
@[simp] theorem wantIncident_resets (s : State) : (s.wantIncident).resets = s.resets := rfl
@[simp] theorem wantIncident_loadCause (s : State) : (s.wantIncident).loadCause = s.loadCause := rfl
@[simp] theorem wantIncident_listenUntil (s : State) : (s.wantIncident).listenUntil = s.listenUntil := rfl
@[simp] theorem wantIncident_running (s : State) : (s.wantIncident).running = s.running := rfl
@[simp] theorem wantIncident_fiu (s : State) : (s.wantIncident).fiu = s.fiu := rfl
@[simp] theorem wantIncident_liu (s : State) : (s.wantIncident).liu = s.liu := rfl
@[simp] theorem wantIncident_svt (s : State) : (s.wantIncident).svt = s.svt := rfl
@[simp] theorem wantIncident_inc (s : State) : (s.wantIncident).inc = s.inc := rfl
@[simp] theorem wantIncident_tal (s : State) : (s.wantIncident).tal = s.tal := rfl
@[simp] theorem wantIncident_fch (s : State) : (s.wantIncident).fch = s.fch := rfl
@[simp] theorem wantIncident_sq (s : State) : (s.wantIncident).sq = s.sq := rfl
@[simp] theorem wantIncident_ord (s : State) : (s.wantIncident).ord = s.ord := rfl
@[simp] theorem wantIncident_spt (s : State) : (s.wantIncident).spt = s.spt := rfl
@[simp] theorem wantIncident_cst (s : State) : (s.wantIncident).cst = s.cst := rfl

@[simp] theorem wantReport_now (s : State) : (s.wantReport).now = s.now := rfl
@[simp] theorem wantReport_draws (s : State) : (s.wantReport).draws = s.draws := rfl
@[simp] theorem wantReport_pending (s : State) : (s.wantReport).pending = s.pending := rfl
@[simp] theorem wantReport_life (s : State) : (s.wantReport).life = s.life := rfl
@[simp] theorem wantReport_resets (s : State) : (s.wantReport).resets = s.resets := rfl
@[simp] theorem wantReport_loadCause (s : State) : (s.wantReport).loadCause = s.loadCause := rfl
@[simp] theorem wantReport_listenUntil (s : State) : (s.wantReport).listenUntil = s.listenUntil := rfl
@[simp] theorem wantReport_running (s : State) : (s.wantReport).running = s.running := rfl
@[simp] theorem wantReport_fiu (s : State) : (s.wantReport).fiu = s.fiu := rfl
@[simp] theorem wantReport_liu (s : State) : (s.wantReport).liu = s.liu := rfl
@[simp] theorem wantReport_svt (s : State) : (s.wantReport).svt = s.svt := rfl
@[simp] theorem wantReport_inc (s : State) : (s.wantReport).inc = s.inc := rfl
@[simp] theorem wantReport_tal (s : State) : (s.wantReport).tal = s.tal := rfl
@[simp] theorem wantReport_fch (s : State) : (s.wantReport).fch = s.fch := rfl
@[simp] theorem wantReport_sq (s : State) : (s.wantReport).sq = s.sq := rfl
@[simp] theorem wantReport_ord (s : State) : (s.wantReport).ord = s.ord := rfl
@[simp] theorem wantReport_spt (s : State) : (s.wantReport).spt = s.spt := rfl
@[simp] theorem wantReport_cst (s : State) : (s.wantReport).cst = s.cst := rfl

@[simp] theorem counted_now (s : State) : (s.counted).now = s.now := rfl
@[simp] theorem counted_pending (s : State) : (s.counted).pending = s.pending := rfl
@[simp] theorem counted_signals (s : State) : (s.counted).signals = s.signals := rfl
@[simp] theorem counted_life (s : State) : (s.counted).life = s.life := rfl
@[simp] theorem counted_resets (s : State) : (s.counted).resets = s.resets := rfl
@[simp] theorem counted_loadCause (s : State) : (s.counted).loadCause = s.loadCause := rfl
@[simp] theorem counted_listenUntil (s : State) : (s.counted).listenUntil = s.listenUntil := rfl
@[simp] theorem counted_running (s : State) : (s.counted).running = s.running := rfl
@[simp] theorem counted_fiu (s : State) : (s.counted).fiu = s.fiu := rfl
@[simp] theorem counted_liu (s : State) : (s.counted).liu = s.liu := rfl
@[simp] theorem counted_svt (s : State) : (s.counted).svt = s.svt := rfl
@[simp] theorem counted_inc (s : State) : (s.counted).inc = s.inc := rfl
@[simp] theorem counted_tal (s : State) : (s.counted).tal = s.tal := rfl
@[simp] theorem counted_fch (s : State) : (s.counted).fch = s.fch := rfl
@[simp] theorem counted_sq (s : State) : (s.counted).sq = s.sq := rfl
@[simp] theorem counted_ord (s : State) : (s.counted).ord = s.ord := rfl
@[simp] theorem counted_spt (s : State) : (s.counted).spt = s.spt := rfl
@[simp] theorem counted_cst (s : State) : (s.counted).cst = s.cst := rfl

@[simp] theorem modInc_now (s : State) (g : Inc → Inc) : (s.modInc g).now = s.now := rfl
@[simp] theorem modInc_draws (s : State) (g : Inc → Inc) : (s.modInc g).draws = s.draws := rfl
@[simp] theorem modInc_pending (s : State) (g : Inc → Inc) : (s.modInc g).pending = s.pending := rfl
@[simp] theorem modInc_signals (s : State) (g : Inc → Inc) : (s.modInc g).signals = s.signals := rfl
@[simp] theorem modInc_life (s : State) (g : Inc → Inc) : (s.modInc g).life = s.life := rfl
@[simp] theorem modInc_resets (s : State) (g : Inc → Inc) : (s.modInc g).resets = s.resets := rfl
@[simp] theorem modInc_loadCause (s : State) (g : Inc → Inc) : (s.modInc g).loadCause = s.loadCause := rfl
@[simp] theorem modInc_listenUntil (s : State) (g : Inc → Inc) : (s.modInc g).listenUntil = s.listenUntil := rfl
@[simp] theorem modInc_running (s : State) (g : Inc → Inc) : (s.modInc g).running = s.running := rfl
@[simp] theorem modInc_fiu (s : State) (g : Inc → Inc) : (s.modInc g).fiu = s.fiu := rfl
@[simp] theorem modInc_liu (s : State) (g : Inc → Inc) : (s.modInc g).liu = s.liu := rfl
@[simp] theorem modInc_svt (s : State) (g : Inc → Inc) : (s.modInc g).svt = s.svt := rfl
@[simp] theorem modInc_tal (s : State) (g : Inc → Inc) : (s.modInc g).tal = s.tal := rfl
@[simp] theorem modInc_fch (s : State) (g : Inc → Inc) : (s.modInc g).fch = s.fch := rfl
@[simp] theorem modInc_sq (s : State) (g : Inc → Inc) : (s.modInc g).sq = s.sq := rfl
@[simp] theorem modInc_ord (s : State) (g : Inc → Inc) : (s.modInc g).ord = s.ord := rfl
@[simp] theorem modInc_spt (s : State) (g : Inc → Inc) : (s.modInc g).spt = s.spt := rfl
@[simp] theorem modInc_cst (s : State) (g : Inc → Inc) : (s.modInc g).cst = s.cst := rfl

@[simp] theorem modOrd_now (s : State) (g : Ord → Ord) : (s.modOrd g).now = s.now := rfl
@[simp] theorem modOrd_draws (s : State) (g : Ord → Ord) : (s.modOrd g).draws = s.draws := rfl
@[simp] theorem modOrd_pending (s : State) (g : Ord → Ord) : (s.modOrd g).pending = s.pending := rfl
@[simp] theorem modOrd_signals (s : State) (g : Ord → Ord) : (s.modOrd g).signals = s.signals := rfl
@[simp] theorem modOrd_life (s : State) (g : Ord → Ord) : (s.modOrd g).life = s.life := rfl
@[simp] theorem modOrd_resets (s : State) (g : Ord → Ord) : (s.modOrd g).resets = s.resets := rfl
@[simp] theorem modOrd_loadCause (s : State) (g : Ord → Ord) : (s.modOrd g).loadCause = s.loadCause := rfl
@[simp] theorem modOrd_listenUntil (s : State) (g : Ord → Ord) : (s.modOrd g).listenUntil = s.listenUntil := rfl
@[simp] theorem modOrd_running (s : State) (g : Ord → Ord) : (s.modOrd g).running = s.running := rfl
@[simp] theorem modOrd_fiu (s : State) (g : Ord → Ord) : (s.modOrd g).fiu = s.fiu := rfl
@[simp] theorem modOrd_liu (s : State) (g : Ord → Ord) : (s.modOrd g).liu = s.liu := rfl
@[simp] theorem modOrd_svt (s : State) (g : Ord → Ord) : (s.modOrd g).svt = s.svt := rfl
@[simp] theorem modOrd_inc (s : State) (g : Ord → Ord) : (s.modOrd g).inc = s.inc := rfl
@[simp] theorem modOrd_tal (s : State) (g : Ord → Ord) : (s.modOrd g).tal = s.tal := rfl
@[simp] theorem modOrd_fch (s : State) (g : Ord → Ord) : (s.modOrd g).fch = s.fch := rfl
@[simp] theorem modOrd_sq (s : State) (g : Ord → Ord) : (s.modOrd g).sq = s.sq := rfl
@[simp] theorem modOrd_spt (s : State) (g : Ord → Ord) : (s.modOrd g).spt = s.spt := rfl
@[simp] theorem modOrd_cst (s : State) (g : Ord → Ord) : (s.modOrd g).cst = s.cst := rfl

@[simp] theorem modSpt_now (s : State) (g : Spt → Spt) : (s.modSpt g).now = s.now := rfl
@[simp] theorem modSpt_draws (s : State) (g : Spt → Spt) : (s.modSpt g).draws = s.draws := rfl
@[simp] theorem modSpt_pending (s : State) (g : Spt → Spt) : (s.modSpt g).pending = s.pending := rfl
@[simp] theorem modSpt_signals (s : State) (g : Spt → Spt) : (s.modSpt g).signals = s.signals := rfl
@[simp] theorem modSpt_life (s : State) (g : Spt → Spt) : (s.modSpt g).life = s.life := rfl
@[simp] theorem modSpt_resets (s : State) (g : Spt → Spt) : (s.modSpt g).resets = s.resets := rfl
@[simp] theorem modSpt_loadCause (s : State) (g : Spt → Spt) : (s.modSpt g).loadCause = s.loadCause := rfl
@[simp] theorem modSpt_listenUntil (s : State) (g : Spt → Spt) : (s.modSpt g).listenUntil = s.listenUntil := rfl
@[simp] theorem modSpt_running (s : State) (g : Spt → Spt) : (s.modSpt g).running = s.running := rfl
@[simp] theorem modSpt_fiu (s : State) (g : Spt → Spt) : (s.modSpt g).fiu = s.fiu := rfl
@[simp] theorem modSpt_liu (s : State) (g : Spt → Spt) : (s.modSpt g).liu = s.liu := rfl
@[simp] theorem modSpt_svt (s : State) (g : Spt → Spt) : (s.modSpt g).svt = s.svt := rfl
@[simp] theorem modSpt_inc (s : State) (g : Spt → Spt) : (s.modSpt g).inc = s.inc := rfl
@[simp] theorem modSpt_tal (s : State) (g : Spt → Spt) : (s.modSpt g).tal = s.tal := rfl
@[simp] theorem modSpt_fch (s : State) (g : Spt → Spt) : (s.modSpt g).fch = s.fch := rfl
@[simp] theorem modSpt_sq (s : State) (g : Spt → Spt) : (s.modSpt g).sq = s.sq := rfl
@[simp] theorem modSpt_ord (s : State) (g : Spt → Spt) : (s.modSpt g).ord = s.ord := rfl
@[simp] theorem modSpt_cst (s : State) (g : Spt → Spt) : (s.modSpt g).cst = s.cst := rfl

@[simp] theorem endVent_now (s : State) : (s.endVent).now = s.now := rfl
@[simp] theorem endVent_draws (s : State) : (s.endVent).draws = s.draws := rfl
@[simp] theorem endVent_pending (s : State) : (s.endVent).pending = s.pending := rfl
@[simp] theorem endVent_signals (s : State) : (s.endVent).signals = s.signals := rfl
@[simp] theorem endVent_life (s : State) : (s.endVent).life = s.life := rfl
@[simp] theorem endVent_resets (s : State) : (s.endVent).resets = s.resets := rfl
@[simp] theorem endVent_loadCause (s : State) : (s.endVent).loadCause = s.loadCause := rfl
@[simp] theorem endVent_listenUntil (s : State) : (s.endVent).listenUntil = s.listenUntil := rfl
@[simp] theorem endVent_running (s : State) : (s.endVent).running = s.running := rfl
@[simp] theorem endVent_fiu (s : State) : (s.endVent).fiu = s.fiu := rfl
@[simp] theorem endVent_liu (s : State) : (s.endVent).liu = s.liu := rfl
@[simp] theorem endVent_svt (s : State) : (s.endVent).svt = s.svt := rfl
@[simp] theorem endVent_inc (s : State) : (s.endVent).inc = s.inc := rfl
@[simp] theorem endVent_tal (s : State) : (s.endVent).tal = s.tal := rfl
@[simp] theorem endVent_fch (s : State) : (s.endVent).fch = s.fch := rfl
@[simp] theorem endVent_sq (s : State) : (s.endVent).sq = s.sq := rfl
@[simp] theorem endVent_spt (s : State) : (s.endVent).spt = s.spt := rfl
@[simp] theorem endVent_cst (s : State) : (s.endVent).cst = s.cst := rfl

@[simp] theorem commandDuty_now (s : State) (f : FanId) (d : Nat) : (s.commandDuty f d).now = s.now := rfl
@[simp] theorem commandDuty_draws (s : State) (f : FanId) (d : Nat) : (s.commandDuty f d).draws = s.draws := rfl
@[simp] theorem commandDuty_pending (s : State) (f : FanId) (d : Nat) : (s.commandDuty f d).pending = s.pending := rfl
@[simp] theorem commandDuty_signals (s : State) (f : FanId) (d : Nat) : (s.commandDuty f d).signals = s.signals := rfl
@[simp] theorem commandDuty_life (s : State) (f : FanId) (d : Nat) : (s.commandDuty f d).life = s.life := rfl
@[simp] theorem commandDuty_resets (s : State) (f : FanId) (d : Nat) : (s.commandDuty f d).resets = s.resets := rfl
@[simp] theorem commandDuty_loadCause (s : State) (f : FanId) (d : Nat) : (s.commandDuty f d).loadCause = s.loadCause := rfl
@[simp] theorem commandDuty_listenUntil (s : State) (f : FanId) (d : Nat) : (s.commandDuty f d).listenUntil = s.listenUntil := rfl
@[simp] theorem commandDuty_running (s : State) (f : FanId) (d : Nat) : (s.commandDuty f d).running = s.running := rfl
@[simp] theorem commandDuty_liu (s : State) (f : FanId) (d : Nat) : (s.commandDuty f d).liu = s.liu := rfl
@[simp] theorem commandDuty_svt (s : State) (f : FanId) (d : Nat) : (s.commandDuty f d).svt = s.svt := rfl
@[simp] theorem commandDuty_inc (s : State) (f : FanId) (d : Nat) : (s.commandDuty f d).inc = s.inc := rfl
@[simp] theorem commandDuty_tal (s : State) (f : FanId) (d : Nat) : (s.commandDuty f d).tal = s.tal := rfl
@[simp] theorem commandDuty_fch (s : State) (f : FanId) (d : Nat) : (s.commandDuty f d).fch = s.fch := rfl
@[simp] theorem commandDuty_sq (s : State) (f : FanId) (d : Nat) : (s.commandDuty f d).sq = s.sq := rfl
@[simp] theorem commandDuty_ord (s : State) (f : FanId) (d : Nat) : (s.commandDuty f d).ord = s.ord := rfl
@[simp] theorem commandDuty_spt (s : State) (f : FanId) (d : Nat) : (s.commandDuty f d).spt = s.spt := rfl
@[simp] theorem commandDuty_cst (s : State) (f : FanId) (d : Nat) : (s.commandDuty f d).cst = s.cst := rfl

@[simp] theorem removePlan_now (s : State) : (s.removePlan).now = s.now := rfl
@[simp] theorem removePlan_draws (s : State) : (s.removePlan).draws = s.draws := rfl
@[simp] theorem removePlan_pending (s : State) : (s.removePlan).pending = s.pending := rfl
@[simp] theorem removePlan_signals (s : State) : (s.removePlan).signals = s.signals := rfl
@[simp] theorem removePlan_life (s : State) : (s.removePlan).life = s.life := rfl
@[simp] theorem removePlan_resets (s : State) : (s.removePlan).resets = s.resets := rfl
@[simp] theorem removePlan_loadCause (s : State) : (s.removePlan).loadCause = s.loadCause := rfl
@[simp] theorem removePlan_listenUntil (s : State) : (s.removePlan).listenUntil = s.listenUntil := rfl
@[simp] theorem removePlan_running (s : State) : (s.removePlan).running = s.running := rfl
@[simp] theorem removePlan_fiu (s : State) : (s.removePlan).fiu = s.fiu := rfl
@[simp] theorem removePlan_liu (s : State) : (s.removePlan).liu = s.liu := rfl
@[simp] theorem removePlan_svt (s : State) : (s.removePlan).svt = s.svt := rfl
@[simp] theorem removePlan_inc (s : State) : (s.removePlan).inc = s.inc := rfl
@[simp] theorem removePlan_sq (s : State) : (s.removePlan).sq = s.sq := rfl
@[simp] theorem removePlan_ord (s : State) : (s.removePlan).ord = s.ord := rfl
@[simp] theorem removePlan_spt (s : State) : (s.removePlan).spt = s.spt := rfl
@[simp] theorem removePlan_cst (s : State) : (s.removePlan).cst = s.cst := rfl

@[simp] theorem modInc_inc (s : State) (g : Inc → Inc) : (s.modInc g).inc = g s.inc := rfl
@[simp] theorem modOrd_ord (s : State) (g : Ord → Ord) : (s.modOrd g).ord = g s.ord := rfl
@[simp] theorem modSpt_spt (s : State) (g : Spt → Spt) : (s.modSpt g).spt = g s.spt := rfl
@[simp] theorem endVent_ord (s : State) : s.endVent.ord = { s.ord with vent := none } := rfl
@[simp] theorem counted_draws (s : State) : s.counted.draws = s.draws + 1 := rfl
@[simp] theorem wantPlan_signals (s : State) : s.wantPlan.signals = { s.signals with plan := true } := rfl
@[simp] theorem wantAvail_signals (s : State) : s.wantAvail.signals = { s.signals with avail := true } := rfl
@[simp] theorem wantIncident_signals (s : State) : s.wantIncident.signals = { s.signals with incident := true } := rfl
@[simp] theorem wantReport_signals (s : State) : s.wantReport.signals = { s.signals with report := true } := rfl
@[simp] theorem request_cst (s : State) (i : Item) (v : Nat) :
    (s.request i v).cst = { s.cst with updates := putUpdate i v s.cst.updates } := rfl

/-! ## Registers read after they are written -/

theorem fan_modFan (s : State) (f g : FanId) (h : Fan → Fan) :
    (s.modFan f h).fan g = if g = f then h (s.fan f) else s.fan g := by
  simp only [State.fan, State.modFan, setFch_fch, Fin.getElem_fin, Vector.getElem_set, Fin.val_inj]
  by_cases e : f = g
  · subst e; simp
  · simp [e, Ne.symm e]

@[simp] theorem fan_modFan_self (s : State) (f : FanId) (h : Fan → Fan) : (s.modFan f h).fan f = h (s.fan f) := by
  simp [fan_modFan]

theorem fanIn_modFanIn (s : State) (f g : FanId) (h : FanInput → FanInput) :
    (s.modFanIn f h).fanIn g = if g = f then h (s.fanIn f) else s.fanIn g := by
  simp only [State.fanIn, State.modFanIn, setFiu_fiu, Fin.getElem_fin, Vector.getElem_set, Fin.val_inj]
  by_cases e : f = g
  · subst e; simp
  · simp [e, Ne.symm e]

@[simp] theorem fanIn_modFanIn_self (s : State) (f : FanId) (h : FanInput → FanInput) :
    (s.modFanIn f h).fanIn f = h (s.fanIn f) := by simp [fanIn_modFanIn]

theorem entry_modEntry (s : State) (k j : Nat) (h : Entry → Entry) :
    (s.modEntry k h).entry j = if entryIdx j = entryIdx k then h (s.entry k) else s.entry j := by
  simp only [State.entry, State.modEntry, setSvt_svt, Fin.getElem_fin, Vector.getElem_set, Fin.val_inj]
  by_cases e : entryIdx k = entryIdx j
  · simp [e]
  · simp [e, Ne.symm e]

@[simp] theorem entry_modEntry_self (s : State) (k : Nat) (h : Entry → Entry) :
    (s.modEntry k h).entry k = h (s.entry k) := by simp [entry_modEntry]

theorem gateway_modGateway (s : State) (k j : Nat) (h : Gateway → Gateway) :
    (s.modGateway k h).gateway j = if gatewayIdx j = gatewayIdx k then h (s.gateway k) else s.gateway j := by
  simp only [State.gateway, State.modGateway, setSvt_svt, Fin.getElem_fin, Vector.getElem_set, Fin.val_inj]
  by_cases e : gatewayIdx k = gatewayIdx j
  · simp [e]
  · simp [e, Ne.symm e]

@[simp] theorem gateway_modGateway_self (s : State) (k : Nat) (h : Gateway → Gateway) :
    (s.modGateway k h).gateway k = h (s.gateway k) := by simp [gateway_modGateway]

theorem line_setLine (s : State) (l m : LineId) (x : Line) :
    (s.setLine l x).line m = if m = l then x else s.line m := by cases l <;> cases m <;> rfl

theorem line_modLine (s : State) (l m : LineId) (h : Line → Line) :
    (s.modLine l h).line m = if m = l then h (s.line l) else s.line m := line_setLine s l m _

@[simp] theorem line_modLine_self (s : State) (l : LineId) (h : Line → Line) :
    (s.modLine l h).line l = h (s.line l) := by simp [line_modLine]

/-! ## Derived names follow their fields -/

theorem cfg_congr {s t : State} (h : t.running = s.running) : t.cfg = s.cfg := by simp [State.cfg, h]
theorem own_congr {s t : State} (h : t.running = s.running) : t.own = s.own := by simp [State.own, cfg_congr h]
theorem active_congr {s t : State} (h : t.life = s.life) : t.active = s.active := by simp [State.active, h]
theorem installed_congr {s t : State} (h : t.running = s.running) (hc : t.cst.store = s.cst.store) (f : FanId) :
    t.installed f = s.installed f := by
  unfold State.installed State.fansInstalled; rw [h, hc]

end Sys2Proof.Machine
end

