-- ==== Sys2Proof/Laws/Keeps.lean ====
section
/-! SUPPORT. `Keeps` and `Ends` of the shared operations: what each leaves unchanged, said once. -/

namespace Sys2Proof.Machine

/-! ## Order -/

theorem Slot.Offered.refl (n : Nat) (x : Slot) : Slot.Offered n x x := .inl rfl

theorem Slot.Offered.trans {n m : Nat} {x y z : Slot} (h : Slot.Offered n x y) (k : Slot.Offered m y z) (hm : n ≤ m) :
    Slot.Offered n x z := by
  rcases k with rfl | ⟨c, hc, hn⟩
  · exact h
  · exact .inr ⟨c, hc, Nat.le_trans hm hn⟩

/-- An update that leaves the Line Interface Unit leaves the slots. -/
theorem slots_of_liu {s t : State} (h : t.liu = s.liu) (l : LineId) (k : TxKind) :
    Slot.Offered s.liu.frames ((s.line l).slot k) ((t.line l).slot k) := by
  refine .inl ?_
  cases l <;> simp [State.line, h]

theorem Keeps.refl (s : State) : Keeps s s := by
  constructor <;> intros <;> first | rfl | exact .inl rfl

theorem Keeps.own {s t : State} (h : Keeps s t) : t.own = s.own := own_congr h.running

theorem Keeps.trans {s t u : State} (h : Keeps s t) (k : Keeps t u) : Keeps s u where
  now := k.now.trans h.now
  pending := k.pending.trans h.pending
  life := k.life.trans h.life
  resets := k.resets.trans h.resets
  loadCause := k.loadCause.trans h.loadCause
  listenUntil := k.listenUntil.trans h.listenUntil
  running := k.running.trans h.running
  spt := k.spt.trans h.spt
  store := k.store.trans h.store
  orders := k.orders.trans h.orders
  derating := k.derating.trans h.derating
  exposure := k.exposure.trans h.exposure
  exposed := k.exposed.trans h.exposed
  minutes f := (k.minutes f).trans (h.minutes f)
  sqRejected := k.sqRejected.trans h.sqRejected
  sqDropped := k.sqDropped.trans h.sqDropped
  sqExpired := k.sqExpired.trans h.sqExpired
  peers := by have := k.peers; rw [h.own] at this; exact this.trans h.peers
  smoke := k.smoke.trans h.smoke
  call := k.call.trans h.call
  heat := k.heat.trans h.heat
  operator := k.operator.trans h.operator
  retired := k.retired.trans h.retired
  incRejected := k.incRejected.trans h.incRejected
  gateways := k.gateways.trans h.gateways
  svtRejected := k.svtRejected.trans h.svtRejected
  peerEntry i hi := (k.peerEntry i (by rwa [h.own])).trans (h.peerEntry i hi)
  ownEntry := by have := k.ownEntry; rw [h.own] at this; exact this.trans h.ownEntry
  fiu := k.fiu.trans h.fiu
  fanIn f := (k.fanIn f).trans (h.fanIn f)
  lines l := (k.lines l).trans (h.lines l)
  seq := k.seq.trans h.seq
  frames := h.frames.trans k.frames
  slots l i := (h.slots l i).trans (k.slots l i) h.frames

theorem Fan.Settles.refl (x : Fan) : x.Settles x :=
  ⟨rfl, fun _ => rfl, fun h => ⟨rfl, .inl h⟩, fun _ => .inl ⟨rfl, rfl, rfl, rfl⟩⟩

theorem state_of_eq {x y : Fan} (h : { x with target := .off } = { y with target := .off }) : x.state = y.state := by
  have := congrArg Fan.state h; exact this

theorem coast_of_eq {x y : Fan} (h : { x with target := .off } = { y with target := .off }) :
    x.coastOverrun = y.coastOverrun := by
  have := congrArg Fan.coastOverrun h; exact this

theorem Fan.Settles.trans {x y z : Fan} (h : x.Settles y) (k : y.Settles z) : x.Settles z := by
  refine ⟨k.measured.trans h.measured, fun hx => ?_, fun hx => ?_, fun hx => ?_⟩
  · have e := h.still hx
    exact (k.still (by rw [state_of_eq e]; exact hx)).trans e
  · obtain ⟨hc, hw | hw | hw⟩ := h.waiting hx
    · obtain ⟨kc, kw⟩ := k.waiting hw
      exact ⟨kc.trans hc, kw⟩
    · have e := k.still (by rw [hw]; rfl)
      exact ⟨(coast_of_eq e).trans hc, .inr (.inl ((state_of_eq e).trans hw))⟩
    · have e := k.still (by rw [hw]; rfl)
      exact ⟨(coast_of_eq e).trans hc, .inr (.inr ((state_of_eq e).trans hw))⟩
  · rcases h.driven hx with ⟨h1, h2, h3, h4⟩ | hs
    · rcases k.driven (by rw [h1]; exact hx) with ⟨k1, k2, k3, k4⟩ | ks
      · exact .inl ⟨k1.trans h1, k2.trans h2, k3.trans h3, k4.trans h4⟩
      · exact .inr ks
    · exact .inr ((state_of_eq (k.still (by rw [hs]; rfl))).trans hs)

/-- A change of the target alone. -/
theorem Fan.Settles.ofEq {x y : Fan} (h : { y with target := .off } = { x with target := .off }) : x.Settles y := by
  have h1 := state_of_eq h
  have h2 := coast_of_eq h
  have h3 := congrArg Fan.measured h
  have h4 := congrArg Fan.cmdDir h
  have h5 := congrArg Fan.startUntil h
  have h6 := congrArg Fan.accSince h
  exact ⟨h3, fun _ => h, fun hx => ⟨h2, .inl (by rw [h1]; exact hx)⟩, fun _ => .inl ⟨h1, h4, h5, h6⟩⟩

/-- A waiting fan that goes on waiting, or stops. -/
theorem Fan.Settles.ofWaiting {x y : Fan} (hx : x.state.waiting = true) (hm : y.measured = x.measured)
    (hc : y.coastOverrun = x.coastOverrun) (hy : y.state.waiting = true ∨ y.state = .fault ∨ y.state = .lockedOut) :
    x.Settles y :=
  ⟨hm, fun h => by revert h hx; cases x.state <;> simp [FanState.still, FanState.waiting], fun _ => ⟨hc, hy⟩,
    fun h => by revert h hx; cases x.state <;> simp [FanState.driven, FanState.waiting]⟩

/-- A driven fan that stops. -/
theorem Fan.Settles.ofStopping {x y : Fan} (hx : x.state.driven = true) (hm : y.measured = x.measured)
    (hy : y.state = .stopping) : x.Settles y :=
  ⟨hm, fun h => by revert h hx; cases x.state <;> simp [FanState.still, FanState.driven],
    fun h => by revert h hx; cases x.state <;> simp [FanState.driven, FanState.waiting], fun _ => .inr hy⟩

theorem Ends.refl (s : State) : Ends s s := ⟨.refl s, rfl, rfl, rfl, fun _ => .refl _, fun _ _ => rfl⟩

theorem Ends.trans {s t u : State} (h : Ends s t) (k : Ends t u) : Ends s u :=
  ⟨h.toKeeps.trans k.toKeeps, k.inc.trans h.inc, k.ord.trans h.ord, k.draws.trans h.draws, fun f =>
    (h.fans f).trans (k.fans f), fun f hf =>
    (k.duty f (by rw [state_of_eq ((h.fans f).still hf)]; exact hf)).trans (h.duty f hf)⟩

theorem Keeps.ite {c : Prop} [Decidable c] {s t u : State} (h : Keeps s t) (k : Keeps s u) :
    Keeps s (if c then t else u) := by split <;> assumption

theorem Ends.ite {c : Prop} [Decidable c] {s t u : State} (h : Ends s t) (k : Ends s u) :
    Ends s (if c then t else u) := by split <;> assumption

/-! ## Updates of one block -/

theorem keeps_setSignals (s : State) (x : Signals) : Keeps s (s.setSignals x) := by constructor <;> intros <;> first | rfl | exact .inl rfl
theorem ends_setSignals (s : State) (x : Signals) : Ends s (s.setSignals x) :=
  ⟨keeps_setSignals s x, rfl, rfl, rfl, fun _ => .refl _, fun _ _ => rfl⟩
theorem ends_wantPlan (s : State) : Ends s s.wantPlan := ends_setSignals s _
theorem ends_wantAvail (s : State) : Ends s s.wantAvail := ends_setSignals s _
theorem ends_wantIncident (s : State) : Ends s s.wantIncident := ends_setSignals s _
theorem ends_wantReport (s : State) : Ends s s.wantReport := ends_setSignals s _

theorem keeps_setDraws (s : State) (n : Nat) : Keeps s (s.setDraws n) := by constructor <;> intros <;> first | rfl | exact .inl rfl

theorem keeps_setFch (s : State) (x : Fch) (he : x.exposureFrom = s.fch.exposureFrom)
    (hl : x.lastExposure = s.fch.lastExposure) (hm : ∀ f : FanId, x.fans[f].minutes = (s.fan f).minutes) :
    Keeps s (s.setFch x) := by
  constructor <;> intros <;> first | rfl | exact .inl rfl | exact he | exact hl | exact hm _

theorem keeps_modFan (s : State) (f : FanId) (g : Fan → Fan) (hg : ∀ x, (g x).minutes = x.minutes) :
    Keeps s (s.modFan f g) :=
  keeps_setFch s _ rfl rfl fun f' => by
    have := congrArg Fan.minutes (fan_modFan s f f' g)
    rw [show (State.fan _ f').minutes = (({ s.fch with fans := s.fch.fans.set f (g s.fch.fans[f]) } : Fch).fans[f']).minutes
      from rfl] at this
    rw [this]; split
    · rename_i h; subst h; exact hg _
    · rfl

theorem ends_modFan (s : State) (f : FanId) (g : Fan → Fan) (hg : ∀ x, (g x).minutes = x.minutes)
    (hs : (s.fan f).Settles (g (s.fan f))) : Ends s (s.modFan f g) :=
  ⟨keeps_modFan s f g hg, rfl, rfl, rfl, fun f' => by
    rw [fan_modFan]; split
    · rename_i h; subst h; exact hs
    · exact .refl _, fun _ _ => rfl⟩

theorem ends_setFch_shared (s : State) (x : Fch) (hx : x.fans = s.fch.fans) (he : x.exposureFrom = s.fch.exposureFrom)
    (hl : x.lastExposure = s.fch.lastExposure) : Ends s (s.setFch x) :=
  ⟨keeps_setFch s x he hl fun f => by rw [hx]; rfl, rfl, rfl, rfl, fun f => by
    show (s.fan f).Settles x.fans[f]; rw [hx]; exact .refl _, fun _ _ => rfl⟩

theorem ends_setTal (s : State) (x : Tal) (h : x.derating = s.tal.derating) : Ends s (s.setTal x) :=
  ⟨by constructor <;> intros <;> first | rfl | exact .inl rfl | exact h, rfl, rfl, rfl, fun _ => .refl _, fun _ _ => rfl⟩

theorem ends_setCst (s : State) (x : Cst) (h : x.store = s.cst.store) : Ends s (s.setCst x) :=
  ⟨by constructor <;> intros <;> first | rfl | exact .inl rfl | exact h, rfl, rfl, rfl, fun _ => .refl _, fun _ _ => rfl⟩

theorem ends_request (s : State) (i : Item) (v : Nat) : Ends s (s.request i v) := ends_setCst s _ rfl

theorem keeps_commandDuty (s : State) (f : FanId) (d : Nat) : Keeps s (s.commandDuty f d) := by
  constructor <;> intros <;> try first | rfl | exact .inl rfl
  rename_i f'
  unfold State.commandDuty
  rw [fanIn_modFanIn]; split
  · rename_i h; subst h; rfl
  · rfl

theorem ends_setSq (s : State) (x : Sq) (hr : x.rejected = s.sq.rejected) (hd : x.dropped = s.sq.dropped)
    (he : x.expired = s.sq.expired) (hp : peersOf s.own x.list = peersOf s.own s.sq.list) : Ends s (s.setSq x) :=
  ⟨by constructor <;> intros <;> first | rfl | exact .inl rfl | exact hr | exact hd | exact he | exact hp, rfl, rfl, rfl, fun _ => .refl _, fun _ _ => rfl⟩

/-- An update of the lines' slots, the frame names and the report timer. -/
theorem ends_setLiu (s : State) (x : Liu) (h1 : x.l1.bare = s.liu.l1.bare) (h2 : x.l2.bare = s.liu.l2.bare)
    (hs : x.seq = s.liu.seq) (hf : s.liu.frames ≤ x.frames)
    (k1 : ∀ k, Slot.Offered s.liu.frames (s.liu.l1.slot k) (x.l1.slot k))
    (k2 : ∀ k, Slot.Offered s.liu.frames (s.liu.l2.slot k) (x.l2.slot k)) :
    Ends s (s.setLiu x) :=
  ⟨by
    constructor
    case lines => intro l; cases l; exact h1; exact h2
    case seq => exact hs
    case frames => exact hf
    case slots => intro l k; cases l; exact k1 k; exact k2 k
    all_goals intros
    all_goals rfl, rfl, rfl, rfl, fun _ => .refl _, fun _ _ => rfl⟩

theorem keeps_setInc (s : State) (x : Inc) (h1 : x.smoke = s.inc.smoke) (h2 : x.call = s.inc.call)
    (h3 : x.heat = s.inc.heat) (h4 : x.operator = s.inc.operator) (h5 : x.retired = s.inc.retired)
    (h6 : x.rejected = s.inc.rejected) : Keeps s (s.setInc x) := by
  constructor <;> intros <;> first | rfl | exact .inl rfl | exact h1 | exact h2 | exact h3 | exact h4 | exact h5 | exact h6

theorem ends_setInc (s : State) (x : Inc) (h : { x with declarerDue := none } = { s.inc with declarerDue := none }) :
    Ends s (s.setInc x) :=
  have h1 := congrArg Inc.smoke h
  have h2 := congrArg Inc.call h
  have h3 := congrArg Inc.heat h
  have h4 := congrArg Inc.operator h
  have h5 := congrArg Inc.retired h
  have h6 := congrArg Inc.rejected h
  ⟨keeps_setInc s x h1 h2 h3 h4 h5 h6, h, rfl, rfl, fun _ => .refl _, fun _ _ => rfl⟩

theorem keeps_endVent (s : State) : Keeps s s.endVent := by constructor <;> intros <;> first | rfl | exact .inl rfl

/-! ## Frames handed over -/

theorem offer_bare (x : Line) (k : TxKind) (c : Copy) : (x.offer k c).bare = x.bare := by
  unfold Line.offer; split
  · rfl
  · cases k <;> rfl

theorem slot_setSlot (x : Line) (k j : TxKind) (y : Slot) :
    (x.setSlot k y).slot j = if j = k then y else x.slot j := by
  cases k <;> cases j <;> rfl

/-- A copy placed in a slot is the slot's newest frame. -/
theorem newest_place (y : Slot) (b : Bool) (c : Copy) : (y.place b c).newest = some c := by
  unfold Slot.place
  cases y.cur
  · rfl
  · cases b <;> rfl

theorem place_offered (y : Slot) (b : Bool) (c : Copy) : Slot.Offered c.id y (y.place b c) :=
  .inr ⟨c, newest_place y b c, Nat.le_refl _⟩

theorem offer_offered (x : Line) (k j : TxKind) (c : Copy) : Slot.Offered c.id (x.slot j) ((x.offer k c).slot j) := by
  unfold Line.offer
  split
  · exact .refl _ _
  · rw [slot_setSlot]
    split
    · rename_i h; subst h; exact place_offered ..
    · exact .refl _ _

theorem ends_handOver (s : State) (k : TxKind) (p : List Byte) : Ends s (s.handOver k p) := by
  unfold State.handOver; split
  · exact ends_setLiu s _ (offer_bare ..) (offer_bare ..) rfl (Nat.le_succ _) (fun _ => offer_offered ..)
      (fun _ => offer_offered ..)
  · exact .refl s

theorem ends_sendIncident (s : State) : Ends s s.sendIncident := by
  unfold State.sendIncident; split
  · exact .refl s
  · dsimp only
    split
    · rename_i h _ _
      generalize encodeIncident h _ _ _ _ = p
      refine (ends_handOver s .incident p).trans (ends_setInc _ _ ?_)
      exact ((ends_handOver s .incident p).inc).symm
    · exact ends_handOver ..

theorem ends_sendReport (s : State) : Ends s s.sendReport :=
  (ends_handOver s _ _).trans (ends_setLiu _ _ rfl rfl rfl (Nat.le_refl _) (fun _ => .refl _ _) fun _ => .refl _ _)

theorem ends_flush (s : State) : Ends s s.flush := by
  unfold State.flush
  exact Ends.trans (Ends.trans (Ends.ite (ends_sendIncident s) (.refl s)) (Ends.ite (ends_sendReport _) (.refl _)))
    (ends_setSignals _ _)

theorem ends_kickEngine (s : State) : Ends s s.kickEngine := by
  unfold State.kickEngine
  split
  · exact .refl s
  · split
    · exact ends_setCst s _ rfl
    · split
      · exact .refl s
      · exact ends_setCst s _ rfl

/-! ## The own claim -/

theorem peersOf_removeSection (own : Nat) (l : List QueueEntry) :
    peersOf own (l.filter fun e => e.station != own) = peersOf own l := by
  simp only [peersOf, isOwnEntry, List.filter_filter]
  congr 1; funext e; simp [bne]

theorem ends_closeClaim (s : State) (f : FanId) (st : ClaimState) : Ends s (s.closeClaim f st) := by
  unfold State.closeClaim
  refine Ends.trans ?_ (ends_handOver ..)
  exact ends_setSq s _ rfl rfl rfl (peersOf_removeSection ..)

theorem ends_restartResend (s : State) : Ends s s.restartResend := ends_setSq s _ rfl rfl rfl rfl

theorem ends_openClaim (s : State) (f : FanId) : Ends s (s.openClaim f) := by
  unfold State.openClaim
  refine Ends.trans ?_ (ends_restartResend _)
  refine Ends.trans ?_ (ends_handOver ..)
  exact ends_setSq s _ rfl rfl rfl rfl

theorem peersOf_markOwnGo (own : Nat) (l : List QueueEntry) :
    peersOf own (l.map fun e => if isOwnEntry own e then { e with go := true } else e) = peersOf own l := by
  induction l with
  | nil => rfl
  | cons e l ih =>
    simp only [peersOf, List.map_cons, List.filter_cons] at ih ⊢
    by_cases h : isOwnEntry own e = true
    · have h' : isOwnEntry own { e with go := true } = true := h
      simp [h, h', ih]
    · simp [h, ih]

theorem ends_claimGo (s : State) (f : FanId) : Ends s (s.claimGo f) := by
  unfold State.claimGo
  refine Ends.trans ?_ (ends_restartResend _)
  refine Ends.trans ?_ (ends_handOver ..)
  exact ends_setSq s _ rfl rfl rfl (peersOf_markOwnGo ..)

theorem ends_resendClaim (s : State) : Ends s s.resendClaim := by
  unfold State.resendClaim; split
  · exact .refl s
  · exact .refl s
  · exact (ends_handOver ..).trans (ends_restartResend _)

theorem ends_handBack (s : State) (f : FanId) (st : ClaimState) : Ends s (s.handBack f st) := by
  unfold State.handBack; split
  · exact (ends_closeClaim s f st).trans (ends_setFch_shared _ _ rfl rfl rfl)
  · exact .refl s

theorem ends_settleClaim (s : State) : Ends s s.settleClaim := by
  unfold State.settleClaim
  split
  · exact .refl s
  · split
    · split
      · refine Ends.trans ?_ (ends_openClaim ..)
        exact ends_setFch_shared s _ rfl rfl rfl
      · exact .refl s
    · exact .refl s

/-! ## A fan -/

@[simp] theorem fan_handOver (s : State) (k : TxKind) (p : List Byte) (f : FanId) :
    (s.handOver k p).fan f = s.fan f := by unfold State.handOver; split <;> rfl

@[simp] theorem fan_closeClaim (s : State) (f g : FanId) (st : ClaimState) : (s.closeClaim f st).fan g = s.fan g := by
  unfold State.closeClaim State.sendClaim; rw [fan_handOver]; rfl

@[simp] theorem fan_handBack (s : State) (f g : FanId) (st : ClaimState) : (s.handBack f st).fan g = s.fan g := by
  unfold State.handBack; split
  · exact fan_closeClaim s f g st
  · rfl

theorem fanIn_handOver (s : State) (k : TxKind) (p : List Byte) (f : FanId) :
    (s.handOver k p).fanIn f = s.fanIn f := by unfold State.handOver; split <;> rfl

theorem fanIn_handBack (s : State) (f g : FanId) (st : ClaimState) : (s.handBack f st).fanIn g = s.fanIn g := by
  unfold State.handBack; split
  · show (s.closeClaim f st).fanIn g = _
    unfold State.closeClaim State.sendClaim; rw [fanIn_handOver]; rfl
  · rfl

@[simp] theorem fan_commandDuty (s : State) (f g : FanId) (d : Nat) : (s.commandDuty f d).fan g = s.fan g := rfl
@[simp] theorem fan_request (s : State) (i : Item) (v : Nat) (g : FanId) : (s.request i v).fan g = s.fan g := rfl
@[simp] theorem fan_setSignals (s : State) (x : Signals) (g : FanId) : (s.setSignals x).fan g = s.fan g := rfl
@[simp] theorem fan_wantAvail (s : State) (g : FanId) : s.wantAvail.fan g = s.fan g := rfl
@[simp] theorem fan_wantPlan (s : State) (g : FanId) : s.wantPlan.fan g = s.fan g := rfl

/-- An operation on one fan: `Keeps`, the Incident Controller, orders, free values and every other fan unchanged. -/
structure Touches (f : FanId) (s t : State) : Prop extends Keeps s t where
  inc   : t.inc = s.inc
  ord   : t.ord = s.ord
  draws : t.draws = s.draws
  rest  : ∀ g, g ≠ f → t.fan g = s.fan g
  duty  : ∀ g, g ≠ f → t.fanIn g = s.fanIn g

theorem Touches.refl (f : FanId) (s : State) : Touches f s s :=
  ⟨.refl s, rfl, rfl, rfl, fun _ _ => rfl, fun _ _ => rfl⟩

theorem Touches.trans {f : FanId} {s t u : State} (h : Touches f s t) (k : Touches f t u) : Touches f s u :=
  ⟨h.toKeeps.trans k.toKeeps, k.inc.trans h.inc, k.ord.trans h.ord, k.draws.trans h.draws,
    fun g hg => (k.rest g hg).trans (h.rest g hg), fun g hg => (k.duty g hg).trans (h.duty g hg)⟩

theorem Touches.ite {f : FanId} {c : Prop} [Decidable c] {s t u : State} (h : Touches f s t) (k : Touches f s u) :
    Touches f s (if c then t else u) := by split <;> assumption

/-- An operation on a fan that does to it what the end of an event may do. -/
theorem Touches.ends {f : FanId} {s t : State} (h : Touches f s t) (hf : (s.fan f).Settles (t.fan f))
    (hd : (s.fan f).state.still = true → t.fanIn f = s.fanIn f) : Ends s t :=
  ⟨h.toKeeps, by rw [h.inc], h.ord, h.draws, fun g => by
    by_cases e : g = f
    · subst e; exact hf
    · rw [h.rest g e]; exact .refl _, fun g hg => by
    by_cases e : g = f
    · subst e; exact hd hg
    · exact h.duty g e⟩

theorem touches_modFan (s : State) (f : FanId) (g : Fan → Fan) (hg : ∀ x, (g x).minutes = x.minutes) :
    Touches f s (s.modFan f g) :=
  ⟨keeps_modFan s f g hg, rfl, rfl, rfl, fun k hk => by rw [fan_modFan, if_neg hk], fun _ _ => rfl⟩

theorem inc_handOver (s : State) (k : TxKind) (p : List Byte) : (s.handOver k p).inc = s.inc := by
  unfold State.handOver; split <;> rfl

theorem touches_handBack (s : State) (f : FanId) (st : ClaimState) : Touches f s (s.handBack f st) :=
  ⟨(ends_handBack s f st).toKeeps, by
    unfold State.handBack; split
    · show (s.closeClaim f st).inc = _; unfold State.closeClaim State.sendClaim; rw [inc_handOver]; rfl
    · rfl, (ends_handBack s f st).ord, (ends_handBack s f st).draws, fun g _ => fan_handBack s f g st,
    fun g _ => fanIn_handBack s f g st⟩

theorem touches_commandDuty (s : State) (f : FanId) (d : Nat) : Touches f s (s.commandDuty f d) :=
  ⟨keeps_commandDuty s f d, rfl, rfl, rfl, fun _ _ => rfl, fun g hg => by
    unfold State.commandDuty; rw [fanIn_modFanIn, if_neg hg]⟩
theorem touches_request (s : State) (f : FanId) (i : Item) (v : Nat) : Touches f s (s.request i v) :=
  ⟨(ends_request s i v).toKeeps, rfl, rfl, rfl, fun _ _ => rfl, fun _ _ => rfl⟩
theorem touches_wantAvail (s : State) (f : FanId) : Touches f s s.wantAvail :=
  ⟨(ends_wantAvail s).toKeeps, rfl, rfl, rfl, fun _ _ => rfl, fun _ _ => rfl⟩

theorem touches_writeMinutes (s : State) (f : FanId) : Touches f s (s.writeMinutes f) := by
  unfold State.writeMinutes
  refine .ite (.refl f s) (Touches.trans ?_ (touches_modFan _ _ _ fun _ => rfl))
  exact touches_request ..

theorem touches_leaveRunning (s : State) (f : FanId) : Touches f s (s.leaveRunning f) := by
  unfold State.leaveRunning
  refine .ite (Touches.trans ?_ (touches_writeMinutes _ _)) (.refl f s)
  exact touches_modFan _ _ _ fun _ => rfl

theorem touches_enterLockedOut (s : State) (f : FanId) (c : LockoutCause) : Touches f s (s.enterLockedOut f c) := by
  unfold State.enterLockedOut
  refine Touches.trans ?_ (touches_wantAvail ..)
  refine Touches.trans ?_ (touches_request ..)
  refine Touches.trans ?_ (touches_commandDuty _ f 0)
  refine Touches.trans ?_ (touches_modFan _ f _ fun _ => rfl)
  exact (touches_handBack s f .abandon).trans (touches_leaveRunning _ f)

theorem touches_countFault (s : State) (f : FanId) : Touches f s (s.countFault f) := by
  unfold State.countFault
  refine .ite (.refl f s) (Touches.trans ?_ (touches_request ..))
  exact touches_modFan _ f _ fun _ => rfl

theorem touches_countStart (s : State) (f : FanId) : Touches f s (s.countStart f) := by
  unfold State.countStart
  refine .ite (.refl f s) (Touches.trans ?_ (touches_request ..))
  exact touches_modFan _ f _ fun _ => rfl

theorem touches_enterFault (s : State) (f : FanId) (c : FaultCause) : Touches f s (s.enterFault f c) := by
  unfold State.enterFault
  lift_lets
  intro s'
  have h : Touches f s s' := by
    refine Touches.trans ?_ (touches_wantAvail ..)
    refine Touches.trans ?_ (touches_countFault _ f)
    refine Touches.trans ?_ (touches_commandDuty _ f 0)
    refine Touches.trans ?_ (touches_modFan _ f _ fun _ => rfl)
    exact (touches_handBack s f .abandon).trans (touches_leaveRunning _ f)
  exact .ite (h.trans (touches_enterLockedOut _ f _)) h

theorem touches_faultIfActive (s : State) (f : FanId) : Touches f s (s.faultIfActive f) := by
  unfold State.faultIfActive
  exact .ite (touches_enterFault ..) (.refl f s)

theorem touches_runPath (s : State) (f : FanId) (d : Direction) : Touches f s (s.runPath f d) := by
  unfold State.runPath
  refine .ite (Touches.trans ?_ (touches_faultIfActive ..)) (Touches.trans ?_ (touches_faultIfActive ..))
  · refine Touches.trans ?_ (touches_modFan _ f _ fun _ => rfl)
    exact touches_handBack ..
  · exact touches_modFan _ f _ fun _ => rfl

theorem touches_enterStarting (s : State) (f : FanId) : Touches f s (s.enterStarting f) := by
  unfold State.enterStarting
  split
  · exact .refl f s
  · refine Touches.trans ?_ (touches_countStart ..)
    refine Touches.trans ?_ (touches_commandDuty ..)
    exact touches_modFan _ f _ fun _ => rfl

theorem touches_enterRunning (s : State) (f : FanId) : Touches f s (s.enterRunning f) := by
  unfold State.enterRunning
  refine Touches.trans ?_ (touches_handBack ..)
  exact touches_modFan _ f _ fun _ => rfl

theorem touches_enterStopping (s : State) (f : FanId) : Touches f s (s.enterStopping f) := by
  unfold State.enterStopping
  refine Touches.trans ?_ (touches_commandDuty ..)
  refine Touches.trans ?_ (touches_modFan _ f _ fun _ => rfl)
  exact (touches_handBack ..).trans (touches_leaveRunning ..)

theorem touches_changeTarget (s : State) (f : FanId) (t : Target) : Touches f s (s.changeTarget f t) := by
  have h : Touches f s (s.modFan f fun y => { y with target := t }) := touches_modFan _ f _ fun _ => rfl
  unfold State.changeTarget
  dsimp only
  refine .ite (.refl f s) (.ite ?_ h)
  split
  · exact h.trans (touches_modFan _ f _ fun _ => rfl)
  · refine h.trans (Touches.trans ?_ (touches_modFan _ f _ fun _ => rfl))
    exact touches_handBack ..
  · exact .ite h (h.trans (touches_runPath ..))
  · exact .ite h (h.trans (touches_runPath ..))
  · exact h.trans (touches_enterStopping ..)
  · exact h.trans (touches_enterStopping ..)
  · refine .ite (h.trans (Touches.trans ?_ (touches_commandDuty ..))) (h.trans (touches_enterStopping ..))
    exact touches_modFan _ f _ fun _ => rfl
  · refine .ite (h.trans (Touches.trans ?_ (touches_commandDuty ..))) (h.trans (touches_enterStopping ..))
    exact touches_modFan _ f _ fun _ => rfl
  all_goals exact h

/-! ## What becomes of the fan itself -/

theorem fan_leaveRunning (s : State) (f : FanId) (h : (s.fan f).state ≠ .running) : s.leaveRunning f = s := by
  unfold State.leaveRunning; rw [if_neg h]

theorem fan_leaveRunning_shared (s : State) (f : FanId) :
    ((s.leaveRunning f).fan f).measured = (s.fan f).measured := by
  unfold State.leaveRunning
  split
  · unfold State.writeMinutes
    split
    · rw [fan_modFan, if_pos rfl]
    · rw [fan_modFan, if_pos rfl, fan_request, fan_modFan, if_pos rfl]
  · rfl

theorem fan_enterLockedOut (s : State) (f : FanId) (c : LockoutCause) (h : (s.fan f).state ≠ .running) :
    (s.enterLockedOut f c).fan f = { (s.fan f).quieten with state := .lockedOut, lockout := c } := by
  have e : (s.handBack f .abandon).leaveRunning f = s.handBack f .abandon :=
    fan_leaveRunning _ _ (by rw [fan_handBack]; exact h)
  unfold State.enterLockedOut
  rw [e, fan_wantAvail, fan_request, fan_commandDuty, fan_modFan, if_pos rfl, fan_handBack]

theorem fan_countFault (s : State) (f : FanId) :
    (s.countFault f).fan f = { s.fan f with faults := satInc (s.fan f).faults } := by
  unfold State.countFault satInc
  split
  · rfl
  · rw [fan_request, fan_modFan, if_pos rfl]

/-- A fan that enters FAULT ends there or, at its third, in LOCKED_OUT. -/
theorem fan_enterFault (s : State) (f : FanId) (c : FaultCause) (h : (s.fan f).state ≠ .running) :
    ((s.enterFault f c).fan f).measured = (s.fan f).measured
      ∧ ((s.enterFault f c).fan f).coastOverrun = (s.fan f).coastOverrun
      ∧ (((s.enterFault f c).fan f).state = .fault ∨ ((s.enterFault f c).fan f).state = .lockedOut) := by
  have e : (s.handBack f .abandon).leaveRunning f = s.handBack f .abandon :=
    fan_leaveRunning _ _ (by rw [fan_handBack]; exact h)
  unfold State.enterFault
  lift_lets
  intro s'
  have h' : s'.fan f = { (s.fan f).quieten with
      state := .fault, lastFault := c, faultCount := min 3 ((s.fan f).faultCount + 1)
      holdUntil := some (s.now + Config.faultHold), faults := satInc (s.fan f).faults } := by
    show (State.wantAvail _).fan f = _
    rw [fan_wantAvail, fan_countFault, e, fan_commandDuty, fan_modFan, if_pos rfl, fan_handBack]
    rfl
  split
  · rw [fan_enterLockedOut _ _ _ (by rw [h']; simp)]
    exact ⟨by rw [h']; rfl, by rw [h']; rfl, .inr rfl⟩
  · rw [h']
    exact ⟨rfl, rfl, .inl rfl⟩

theorem settles_faultIfActive (s : State) (f : FanId) : (s.fan f).Settles ((s.faultIfActive f).fan f) := by
  unfold State.faultIfActive
  split
  · rename_i h
    have hw : (s.fan f).state.waiting = true := by
      revert h; cases (s.fan f).state <;> simp [FanState.waiting]
    have hr : (s.fan f).state ≠ .running := by revert hw; cases (s.fan f).state <;> simp [FanState.waiting]
    obtain ⟨h1, h2, h3⟩ := fan_enterFault s f .drive hr
    exact .ofWaiting hw h1 h2 (.inr h3)
  · exact .refl _

theorem settles_runPath (s : State) (f : FanId) (d : Direction) (h : (s.fan f).state.waiting = true) :
    (s.fan f).Settles ((s.runPath f d).fan f) := by
  unfold State.runPath
  split
  · refine Fan.Settles.trans ?_ (settles_faultIfActive _ f)
    rw [fan_modFan, if_pos rfl, fan_handBack]
    exact .ofWaiting h rfl rfl (.inl rfl)
  · refine Fan.Settles.trans ?_ (settles_faultIfActive _ f)
    rw [fan_modFan, if_pos rfl]
    exact .ofWaiting h rfl rfl (.inl rfl)

theorem settles_enterStopping (s : State) (f : FanId) (h : (s.fan f).state.driven = true) :
    (s.fan f).Settles ((s.enterStopping f).fan f) := by
  unfold State.enterStopping
  rw [fan_commandDuty, fan_modFan, if_pos rfl]
  refine .ofStopping h ?_ rfl
  show (((s.handBack f .abandon).leaveRunning f).fan f).measured = _
  rw [fan_leaveRunning_shared, fan_handBack]

theorem settles_changeTarget (s : State) (f : FanId) (t : Target) :
    (s.fan f).Settles ((s.changeTarget f t).fan f) := by
  have h : (s.modFan f fun y => { y with target := t }).fan f = { s.fan f with target := t } := by
    rw [fan_modFan, if_pos rfl]
  have hs : (s.fan f).Settles ((s.modFan f fun y => { y with target := t }).fan f) := by rw [h]; exact .ofEq rfl
  have he : ((s.modFan f fun y => { y with target := t }).fan f).state = (s.fan f).state := by rw [h]
  generalize hg : s.modFan f (fun y => { y with target := t }) = u at h hs he
  unfold State.changeTarget
  dsimp only
  rw [hg]
  split
  · exact .refl _
  · split
    · split
      · have hx : (s.fan f).state = .braking := by assumption
        refine hs.trans ?_
        rw [fan_modFan, if_pos rfl]
        exact .ofWaiting (by rw [he, hx]; rfl) rfl rfl (.inl rfl)
      · have hx : (s.fan f).state = .startWait := by assumption
        refine hs.trans ?_
        rw [fan_modFan, if_pos rfl, fan_handBack]
        exact .ofWaiting (by rw [he, hx]; rfl) rfl rfl (.inl rfl)
      · have hx : (s.fan f).state = .braking := by assumption
        split
        · exact hs
        · exact hs.trans (settles_runPath _ _ _ (by rw [he, hx]; rfl))
      · have hx : (s.fan f).state = .startWait := by assumption
        split
        · exact hs
        · exact hs.trans (settles_runPath _ _ _ (by rw [he, hx]; rfl))
      · have hx : (s.fan f).state = .starting := by assumption
        exact hs.trans (settles_enterStopping _ _ (by rw [he, hx]; rfl))
      · have hx : (s.fan f).state = .running := by assumption
        exact hs.trans (settles_enterStopping _ _ (by rw [he, hx]; rfl))
      · have hx : (s.fan f).state = .starting := by assumption
        split
        · rw [fan_commandDuty, fan_modFan, if_pos rfl]
          refine hs.trans ⟨rfl, fun k => ?_, fun k => ?_, fun _ => .inl ⟨rfl, rfl, rfl, rfl⟩⟩
          · rw [he, hx] at k; cases k
          · rw [he, hx] at k; cases k
        · exact hs.trans (settles_enterStopping _ _ (by rw [he, hx]; rfl))
      · have hx : (s.fan f).state = .running := by assumption
        split
        · rw [fan_commandDuty, fan_modFan, if_pos rfl]
          refine hs.trans ⟨rfl, fun k => ?_, fun k => ?_, fun _ => .inl ⟨rfl, rfl, rfl, rfl⟩⟩
          · rw [he, hx] at k; cases k
          · rw [he, hx] at k; cases k
        · exact hs.trans (settles_enterStopping _ _ (by rw [he, hx]; rfl))
      all_goals exact hs
    · exact hs

theorem ends_changeTarget (s : State) (f : FanId) (t : Target) : Ends s (s.changeTarget f t) :=
  (touches_changeTarget s f t).ends (settles_changeTarget s f t) fun hf => by
    unfold State.changeTarget
    dsimp only
    split
    · rfl
    · split
      · revert hf
        cases (s.fan f).state <;> cases t <;> simp [FanState.still] <;> rfl
      · rfl

theorem ends_leaveOff (s : State) (f : FanId) : Ends s (s.leaveOff f) := by
  unfold State.leaveOff
  split
  · rename_i h
    split
    · exact .refl s
    · exact (touches_runPath ..).ends (settles_runPath _ _ _ (by rw [h.2]; rfl)) fun hf => by
        rw [h.2] at hf; cases hf
  · exact .refl s

/-! ## Over the fans -/

theorem forFans_rel {R : State → State → Prop} (hr : ∀ s, R s s) (ht : ∀ {s t u}, R s t → R t u → R s u)
    (g : State → FanId → State) (hg : ∀ s f, R s (g s f)) (s : State) : R s (s.forFans g) := by
  have h : ∀ (l : List FanId) (s : State), R s (l.foldl (fun s f => if s.installed f then g s f else s) s) := by
    intro l
    induction l with
    | nil => exact fun s => hr s
    | cons f l ih =>
      intro s
      refine ht ?_ (ih _)
      beta_reduce
      by_cases h : s.installed f = true
      · rw [if_pos h]; exact hg s f
      · rw [if_neg h]; exact hr s
  exact h allFans s

theorem ends_forFans (s : State) (g : State → FanId → State) (hg : ∀ s f, Ends s (g s f)) : Ends s (s.forFans g) :=
  forFans_rel Ends.refl Ends.trans g hg s

theorem keeps_forFans (s : State) (g : State → FanId → State) (hg : ∀ s f, Keeps s (g s f)) : Keeps s (s.forFans g) :=
  forFans_rel Keeps.refl Keeps.trans g hg s

theorem ends_actOnTargets (s : State) : Ends s s.actOnTargets := by
  unfold State.actOnTargets
  exact (ends_forFans _ _ fun s f => ends_changeTarget s f _).trans (ends_forFans _ _ ends_leaveOff)

theorem ends_updateStagger (s : State) : Ends s s.updateStagger := by
  unfold State.updateStagger
  split
  · exact .refl s
  · rename_i f _
    split
    · rename_i h
      have hw : (s.fan f).state.waiting = true := by rw [h]; rfl
      have k : ∀ x, Ends s (s.modFan f fun y => { y with staggerUntil := x }) := by
        intro x
        refine ends_modFan s f _ (fun _ => rfl) ?_
        exact .ofWaiting hw rfl rfl (.inl hw)
      refine .ite (k none) ?_
      split
      · exact .refl s
      · exact k _
    · exact .refl s

/-! ## The own entry, availability, the plan -/

theorem ends_refreshOwn (s : State) : Ends s s.refreshOwn := by
  have h : Ends s (s.modEntry s.own fun e => { e with report := s.ownReport }) := by
    refine ⟨?_, rfl, rfl, rfl, fun _ => .refl _, fun _ _ => rfl⟩
    constructor <;> intros <;> try first | rfl | exact .inl rfl
    · rename_i k hk
      rw [entry_modEntry, if_neg hk]
    · rw [entry_modEntry, if_pos rfl]; rfl
  unfold State.refreshOwn
  dsimp only
  exact .ite (h.trans (ends_wantReport _)) h

theorem ends_formAvail (s : State) : Ends s s.formAvail := by
  unfold State.formAvail
  dsimp only
  refine .ite (ends_setSignals ..) (Ends.trans ?_ (ends_wantPlan _))
  refine Ends.trans ?_ (ends_setTal _ _ rfl)
  exact ends_setSignals s _

theorem ends_computePlan (s : State) (h : Held) : Ends s (s.computePlan h) := by
  unfold State.computePlan
  dsimp only
  refine Ends.trans ?_ (ends_setFch_shared _ _ rfl rfl rfl)
  exact ends_setTal s _ rfl

theorem ends_removePlan (s : State) : Ends s s.removePlan := by
  unfold State.removePlan
  refine Ends.trans ?_ (ends_setFch_shared _ _ rfl rfl rfl)
  exact ends_setTal s _ rfl

theorem ends_formPlan (s : State) : Ends s s.formPlan := by
  unfold State.formPlan
  dsimp only
  split
  · exact .ite ((ends_setSignals ..).trans (ends_computePlan ..)) (ends_setSignals ..)
  · exact ends_setSignals ..

theorem ends_pass (s : State) : Ends s s.pass := by
  unfold State.pass
  refine Ends.trans ?_ (ends_actOnTargets _)
  refine Ends.trans ?_ (ends_formPlan _)
  refine Ends.trans ?_ (ends_refreshOwn _)
  exact .ite (ends_formAvail s) (.refl s)

theorem ends_settle (n : Nat) (s : State) : Ends s (s.settle n) := by
  induction n generalizing s with
  | zero => exact .refl s
  | succ n ih => exact .ite ((ends_pass s).trans (ih _)) (ends_pass s)

/-- What the end of an event leaves unchanged. -/
theorem ends_finish (s : State) : Ends s s.finish := by
  unfold State.finish
  refine .ite ?_ (ends_kickEngine s)
  refine Ends.trans ?_ (ends_kickEngine _)
  refine Ends.trans ?_ (ends_flush _)
  refine Ends.trans ?_ (ends_refreshOwn _)
  refine Ends.trans ?_ (ends_updateStagger _)
  exact (ends_settle _ s).trans (ends_settleClaim _)

end Sys2Proof.Machine
end

