-- ==== Sys2Proof/Laws/IncidentKeeps.lean ====
section
/-! SUPPORT. `Keeps` of the Incident Controller's operations, of grants and of the work on an
observation; what the lead's condition rules out; what the own entry shows once it is written. -/

namespace Sys2Proof.Machine

/-- An update of the Incident Controller that leaves detectors, the retired list and the rejected count. -/
theorem keeps_modInc (s : State) (g : Inc → Inc)
    (hg : ((g s.inc).smoke, (g s.inc).call, (g s.inc).heat, (g s.inc).operator, (g s.inc).retired, (g s.inc).rejected)
      = (s.inc.smoke, s.inc.call, s.inc.heat, s.inc.operator, s.inc.retired, s.inc.rejected)) :
    Keeps s (s.modInc g) := by
  simp only [Prod.mk.injEq] at hg
  exact keeps_setInc s _ hg.1 hg.2.1 hg.2.2.1 hg.2.2.2.1 hg.2.2.2.2.1 hg.2.2.2.2.2

theorem Ends.keep {s t : State} (h : Ends s t) : Keeps s t := h.toKeeps

theorem keeps_wantPlan (s : State) : Keeps s s.wantPlan := (ends_wantPlan s).toKeeps
theorem keeps_wantAvail (s : State) : Keeps s s.wantAvail := (ends_wantAvail s).toKeeps
theorem keeps_wantIncident (s : State) : Keeps s s.wantIncident := (ends_wantIncident s).toKeeps

theorem keeps_setIncState (s : State) (st : IncState) : Keeps s (s.setIncState st) := by
  unfold State.setIncState
  refine .ite (.refl s) (Keeps.trans ?_ (keeps_wantPlan _))
  exact keeps_modInc s _ rfl

theorem keeps_declarerFrame (s : State) : Keeps s s.declarerFrame := by
  unfold State.declarerFrame
  split
  · exact .ite (keeps_wantIncident s) (.refl s)
  · exact .refl s

theorem keeps_sendIncidentNow (s : State) : Keeps s s.sendIncidentNow :=
  ((ends_sendIncident s).trans (ends_setSignals _ _)).toKeeps

theorem keeps_becomeLead (s : State) : Keeps s s.becomeLead := by
  unfold State.becomeLead
  split
  · exact .refl s
  · refine Keeps.trans ?_ (keeps_sendIncidentNow _)
    refine Keeps.trans ?_ (keeps_wantPlan _)
    refine Keeps.trans ?_ (keeps_setIncState _ _)
    exact keeps_modInc s _ rfl

theorem keeps_ceaseLead (s : State) : Keeps s s.ceaseLead := keeps_modInc s _ rfl

theorem keeps_reevalLead (s : State) : Keeps s s.reevalLead := by
  unfold State.reevalLead
  dsimp only
  have h : Keeps s s.refreshOwn := (ends_refreshOwn s).toKeeps
  exact .ite (.ite h (h.trans (keeps_becomeLead _))) (.ite (h.trans (keeps_ceaseLead _)) h)

theorem keeps_viewChange (s : State) : Keeps s s.viewChange := (keeps_reevalLead s).trans (keeps_wantPlan _)

theorem keeps_endVentForIncident (s : State) : Keeps s s.endVentForIncident := by
  unfold State.endVentForIncident
  have h : Keeps s s.endVent.counted := (keeps_endVent s).trans (keeps_setDraws _ _)
  split
  · exact .refl s
  · exact .ite (h.trans (ends_actOnTargets _).toKeeps) h

theorem keeps_formRecord (s : State) (id : Identity) (v : Nat) (t : Triple) (l : Nat) :
    Keeps s (s.formRecord id v t l) := by
  unfold State.formRecord
  refine Keeps.trans ?_ (keeps_reevalLead _)
  refine Keeps.trans ?_ (keeps_wantPlan _)
  refine Keeps.trans ?_ (keeps_endVentForIncident _)
  exact keeps_modInc s _ rfl

theorem keeps_advanceCounter (s : State) : Keeps s s.advanceCounter := by
  unfold State.advanceCounter
  refine .ite (keeps_modInc s _ rfl) (Keeps.trans ?_ (ends_request ..).toKeeps)
  exact keeps_modInc s _ rfl

theorem keeps_drawNumber (n : Nat) (s : State) : Keeps s (s.drawNumber n) := by
  induction n generalizing s with
  | zero => exact .refl s
  | succ n ih => exact .ite ((keeps_advanceCounter s).trans (ih _)) (keeps_advanceCounter s)

theorem keeps_declareNew (s : State) (v : Nat) : Keeps s (s.declareNew v) := by
  unfold State.declareNew
  exact ((keeps_drawNumber _ s).trans (keeps_wantIncident _)).trans (keeps_formRecord ..)

theorem keeps_raise (s : State) (v : Nat) : Keeps s (s.raise v) := by
  unfold State.raise
  refine Keeps.trans ?_ (keeps_wantIncident _)
  refine Keeps.trans ?_ (keeps_wantPlan _)
  exact keeps_modInc s _ rfl

theorem keeps_declarationRule (s : State) (v : Nat) : Keeps s (s.declarationRule v) := by
  unfold State.declarationRule
  split
  · exact keeps_declareNew s v
  · exact .ite (.ite (keeps_raise s v) (keeps_declareNew s v)) (.refl s)

theorem keeps_considerLatch (s : State) (v : Option Nat) : Keeps s (s.considerLatch v) := by
  unfold State.considerLatch
  split
  · exact .ite (keeps_declarationRule ..) (.refl s)
  · exact .refl s

theorem keeps_judgeAlert (s : State) : Keeps s s.judgeAlert := by
  unfold State.judgeAlert
  split
  · exact .refl s
  · split
    · exact keeps_setIncState ..
    · exact keeps_modInc s _ rfl
    · split
      · exact .refl s
      · exact keeps_modInc s _ rfl
    · exact .refl s

theorem keeps_directionChange (s : State) (t : Triple) : Keeps s (s.directionChange t) := by
  unfold State.directionChange
  refine Keeps.trans ?_ (keeps_reevalLead _)
  refine Keeps.trans ?_ (keeps_wantPlan _)
  refine Keeps.trans ?_ (keeps_declarerFrame _)
  exact keeps_modInc s _ rfl

theorem keeps_sameDirection (s : State) (t : Triple) : Keeps s (s.sameDirection t) := by
  unfold State.sameDirection
  refine Keeps.trans ?_ (keeps_reevalLead _)
  refine Keeps.trans ?_ (keeps_wantPlan _)
  refine Keeps.trans ?_ (keeps_declarerFrame _)
  exact keeps_modInc s _ rfl

theorem keeps_takeTriple (s : State) (h : Held) (t : Triple) : Keeps s (s.takeTriple h t) := by
  unfold State.takeTriple
  refine .ite (keeps_sameDirection ..) ?_
  split
  · exact keeps_directionChange ..
  · exact keeps_modInc s _ rfl

theorem keeps_competeTriple (s : State) (t : Triple) : Keeps s (s.competeTriple t) := by
  unfold State.competeTriple
  split
  · exact .refl s
  · exact .ite (keeps_takeTriple ..) (.refl s)

theorem keeps_acceptDemand (s : State) (h : Held) (o t : Nat) (q : BitVec 8) : Keeps s (s.acceptDemand h o t q) := by
  unfold State.acceptDemand
  refine Keeps.trans ?_ (keeps_reevalLead _)
  refine Keeps.trans ?_ (keeps_wantPlan _)
  refine Keeps.trans ?_ (keeps_setIncState _ _)
  exact keeps_modInc s _ rfl

theorem keeps_judgeDemand (s : State) (o : Nat) (m : IncidentMsg) : Keeps s (s.judgeDemand o m) := by
  unfold State.judgeDemand
  split
  · exact .ite (keeps_acceptDemand ..) (keeps_modInc s _ rfl)
  · exact .refl s

theorem keeps_merge (s : State) (h : Held) (m : IncidentMsg) : Keeps s (s.merge h m) := by
  unfold State.merge
  lift_lets
  intro s'
  have h' : Keeps s s' := Keeps.trans (.ite (keeps_modInc s _ rfl) (.refl s)) (keeps_competeTriple _ _)
  exact .ite h' (h'.trans (keeps_wantPlan _))

theorem keeps_handleIncident (s : State) (o : Nat) (m : IncidentMsg) : Keeps s (s.handleIncident o m) := by
  unfold State.handleIncident
  refine .ite (.refl s) ?_
  split
  · exact (keeps_formRecord ..).trans (keeps_judgeDemand ..)
  · exact .ite ((keeps_merge ..).trans (keeps_judgeDemand ..))
      (.ite ((keeps_formRecord ..).trans (keeps_judgeDemand ..)) (.refl s))

theorem keeps_controlStep (s : State) (h : Held) (d : Demand) : Keeps s (s.controlStep h d) := by
  unfold State.controlStep
  dsimp only
  refine Keeps.trans ?_ (keeps_wantIncident _)
  refine Keeps.trans ?_ (keeps_wantPlan _)
  exact keeps_modInc s _ rfl

/-! ## Grants -/

theorem keeps_grant (s : State) : Keeps s s.grant := by
  unfold State.grant
  split
  · exact .ite ((ends_claimGo ..).toKeeps.trans (touches_enterStarting ..).toKeeps) (.refl s)
  · exact .refl s

theorem keeps_judgeGrant (s : State) : Keeps s s.judgeGrant := .ite (keeps_grant s) (.refl s)

/-! ## Fans -/

theorem touches_supervise (s : State) (f : FanId) (m : Int) : Touches f s (s.supervise f m) := by
  unfold State.supervise
  lift_lets
  intro x mD loss rev
  split
  · exact touches_enterFault s f .direction
  · split
    · exact touches_enterFault s f .speedLoss
    · refine touches_modFan s f _ ?_
      clear_value loss rev
      intro y; rfl

theorem touches_speedUpdate (s : State) (f : FanId) (m : Int) : Touches f s (s.speedUpdate f m) := by
  have h : Touches f s (s.modFan f fun x => { x with measured := m }) := touches_modFan s f _ fun _ => rfl
  unfold State.speedUpdate
  dsimp only
  refine .ite ?_ h
  split
  · refine .ite (h.trans (Touches.trans ?_ (touches_faultIfActive ..))) h
    exact touches_modFan _ f _ fun _ => rfl
  · split
    · exact .ite (h.trans (touches_runPath ..)) h
    · exact h
  · exact .ite (h.trans (touches_enterRunning ..)) h
  · exact h.trans (touches_supervise ..)
  · refine .ite (h.trans ?_) h
    exact touches_modFan _ f _ fun _ => rfl
  all_goals exact h

theorem touches_driveFaultChange (s : State) (f : FanId) (a : Bool) : Touches f s (s.driveFaultChange f a) := by
  unfold State.driveFaultChange
  refine .ite ?_ (.refl f s)
  have h : Touches f s (s.modFan f Fan.toOff) := touches_modFan s f _ fun _ => rfl
  cases (s.fan f).state
  case braking | startWait | starting | running => exact .ite (touches_enterFault ..) (.refl f s)
  case fault => exact .ite (h.trans (touches_wantAvail ..)) (.refl f s)
  case off | stopping | lockedOut => exact .refl f s

/-! ## The lead and the own entry -/

/-- The locus lies in the span, so no record leaves its own locus upstream. -/
theorem locus_not_mem_upstream (h : Held) (c : Settings) : h.locus ∉ h.upstream c := by
  unfold Held.upstream
  split
  · rename_i hd
    simp only [List.mem_reverse, Held.below, Held.lo, spanLo, hd, List.mem_map, List.mem_range]
    omega
  · rename_i hd
    simp only [Held.above, Held.hi, spanHi, hd, List.mem_map, List.mem_range]
    omega

/-- A node is not lead of an incident at its own section (R84, R85). -/
theorem leadHolds_of_own_locus {s : State} {h : Held} (hh : s.inc.held = some h) (ho : h.locus = s.own) :
    s.leadHolds = false := by
  have hv : s.viewLead ≠ some s.own := by
    intro hv
    simp only [State.viewLead, hh] at hv
    exact locus_not_mem_upstream h s.cfg (ho ▸ List.mem_of_find?_eq_some hv)
  simp [State.leadHolds, hh, hv]

/-- The own entry shows what its blocks hold once it is written. -/
theorem ownReport_told {s : State} : s.OwnEntryTold s.ownReport where
  node     := ⟨rfl, rfl⟩
  dets     := rfl
  healthy  := by
    simp only [State.ownReport, State.fansHealthy]
    congr 2
    funext f
    cases s.installed f <;> cases (s.fan f).state <;> rfl
  running  := by
    simp only [State.ownReport, State.fansRunning]
    congr 2
    funext f
    cases s.installed f <;> cases (s.fan f).state <;> rfl
  thrust   := by
    simp only [State.ownReport, State.presentThrust]
    congr 2
    funext f
    simp only [State.fanThrust, Bool.and_eq_true, beq_iff_eq]
    split
    · cases (s.fan f).cmdDir <;> rfl
    · rfl
  avail    := rfl
  incident := ⟨rfl, rfl⟩
  orders   := ⟨rfl, rfl, rfl⟩
  settings := by
    refine ⟨rfl, rfl, fun x hx => ?_⟩
    simp [State.ownReport, hx]

theorem refreshOwn_told (s : State) : s.refreshOwn.OwnEntryTold (s.refreshOwn.entry s.own).report := by
  have h : (s.refreshOwn.entry s.own).report = s.ownReport := by
    unfold State.refreshOwn
    dsimp only
    have k : ((s.modEntry s.own fun e => { e with report := s.ownReport }).entry s.own).report = s.ownReport := by
      rw [entry_modEntry, if_pos rfl]
    split <;> exact k
  rw [h]
  unfold State.refreshOwn
  dsimp only
  split <;> exact ⟨ownReport_told.node, ownReport_told.dets, ownReport_told.healthy, ownReport_told.running,
    ownReport_told.thrust, ownReport_told.avail, ownReport_told.incident, ownReport_told.orders, ownReport_told.settings⟩

end Sys2Proof.Machine
end

