-- ==== Sys2Proof/Laws/Memory.lean ====
section
/-! SUPPORT. The store's canonical form, and what a read gives after a write. -/

namespace Sys2Proof.Machine

theorem Memory.wf_nil : Memory.wf [] := ⟨.nil, by simp⟩

theorem Memory.wf_tail {c : Host.Cell} {m : Memory} (h : Memory.wf (c :: m)) : Memory.wf m :=
  ⟨h.1.of_cons, fun d hd => h.2 d (.tail _ hd)⟩

theorem Memory.wf_head {c : Host.Cell} {m : Memory} (h : Memory.wf (c :: m)) : ∀ d ∈ m, c.1 < d.1 :=
  (List.pairwise_cons.mp h.1).1

theorem Memory.wf_cons {c : Host.Cell} {m : Memory} (h : Memory.wf m) (hc : ∀ d ∈ m, c.1 < d.1) (h0 : c.2 ≠ 0) :
    Memory.wf (c :: m) :=
  ⟨List.pairwise_cons.mpr ⟨hc, h.1⟩, fun d hd => by
    rcases List.mem_cons.mp hd with rfl | hd
    · exact h0
    · exact h.2 d hd⟩

/-- Every address a write leaves is the written one or was there. -/
theorem Memory.addr_of_mem_write {m : Memory} {k : Nat} {v : Byte} {d : Host.Cell} (h : d ∈ m.write k v) :
    d.1 = k ∨ d ∈ m := by
  induction m with
  | nil =>
    unfold Memory.write at h; split at h
    · simp at h
    · simp at h; exact .inl (by rw [h])
  | cons c m ih =>
    obtain ⟨a, b⟩ := c
    unfold Memory.write at h
    split at h
    · split at h
      · exact .inr h
      · rcases List.mem_cons.mp h with rfl | h
        · exact .inl rfl
        · exact .inr h
    · split at h
      · split at h
        · exact .inr (.tail _ h)
        · rcases List.mem_cons.mp h with rfl | h
          · exact .inl rfl
          · exact .inr (.tail _ h)
      · rcases List.mem_cons.mp h with rfl | h
        · exact .inr (.head _)
        · rcases ih h with h | h
          · exact .inl h
          · exact .inr (.tail _ h)

/-- A write keeps the canonical form. -/
theorem Memory.wf_write {m : Memory} (h : Memory.wf m) (k : Nat) (v : Byte) : Memory.wf (m.write k v) := by
  induction m with
  | nil =>
    unfold Memory.write; split
    · exact h
    · rename_i hv; exact wf_cons wf_nil (by simp) hv
  | cons c m ih =>
    obtain ⟨a, b⟩ := c
    have hm := wf_tail h
    unfold Memory.write
    split
    · split
      · exact h
      · rename_i hk hv
        refine wf_cons h (fun d hd => ?_) hv
        rcases List.mem_cons.mp hd with rfl | hd
        · exact hk
        · exact Nat.lt_trans hk (wf_head h d hd)
    · split
      · rename_i hk
        split
        · exact hm
        · rename_i hv; exact wf_cons hm (fun d hd => hk ▸ wf_head h d hd) hv
      · rename_i h1 h2
        refine wf_cons (ih hm) (fun d hd => ?_) (h.2 _ (.head _))
        rcases addr_of_mem_write hd with hk | hd
        · rw [hk]; omega
        · exact wf_head h d hd

theorem Memory.wf_writeAll {m : Memory} (h : Memory.wf m) (k : Nat) (l : List Byte) : Memory.wf (m.writeAll k l) := by
  induction l generalizing m k with
  | nil => exact h
  | cons v l ih => exact ih (wf_write h k v) (k + 1)

/-- Below every listed address a read gives 00h. -/
theorem Memory.read_of_lt {m : Memory} {k : Nat} (h : ∀ d ∈ m, k < d.1) : m.read k = 0 := by
  induction m with
  | nil => rfl
  | cons c m ih =>
    obtain ⟨a, b⟩ := c
    have := h (a, b) (.head _)
    unfold Memory.read
    rw [if_neg (by simp only at this; omega)]
    exact ih fun d hd => h d (.tail _ hd)

/-- The byte at the written address is the written one; every other byte is as before. -/
theorem Memory.read_write {m : Memory} (h : Memory.wf m) (k j : Nat) (v : Byte) :
    (m.write k v).read j = if j = k then v else m.read j := by
  induction m with
  | nil =>
    by_cases hv : v = 0
    · simp only [Memory.write, if_pos hv, Memory.read]
      split
      · exact hv.symm
      · rfl
    · simp only [Memory.write, if_neg hv, Memory.read]
  | cons c m ih =>
    obtain ⟨a, b⟩ := c
    have hm := wf_tail h
    have hh : ∀ d ∈ m, a < d.1 := wf_head h
    rcases Nat.lt_trichotomy k a with hk | hk | hk
    · have hr : Memory.read ((a, b) :: m) k = 0 := read_of_lt fun d hd => by
        rcases List.mem_cons.mp hd with rfl | hd
        · exact hk
        · exact Nat.lt_trans hk (hh d hd)
      by_cases hv : v = 0
      · simp only [Memory.write, if_pos hk, if_pos hv]
        split
        · rename_i hj; rw [hj, hr, hv]
        · rfl
      · simp only [Memory.write, if_pos hk, if_neg hv]
        rw [Memory.read]
    · subst hk
      have h0 : ¬ k < k := Nat.lt_irrefl k
      by_cases hv : v = 0
      · simp only [Memory.write, if_neg h0, if_pos hv, ↓reduceIte, Memory.read]
        split
        · rename_i hj; rw [hj, hv]; exact read_of_lt hh
        · rfl
      · simp only [Memory.write, if_neg h0, if_neg hv, ↓reduceIte, Memory.read]
        split <;> rfl
    · have h1 : ¬ k < a := by omega
      have h2 : ¬ k = a := by omega
      simp only [Memory.write, if_neg h1, if_neg h2, Memory.read]
      rw [ih hm]
      by_cases hj : j = a
      · rw [if_pos hj, if_pos hj, if_neg (by omega)]
      · rw [if_neg hj, if_neg hj]

/-- Outside the bytes of a run, `writeAll` leaves every byte. -/
theorem Memory.read_writeAll {m : Memory} (h : Memory.wf m) (k j : Nat) (l : List Byte) :
    (m.writeAll k l).read j = if k ≤ j ∧ j < k + l.length then l.getD (j - k) 0 else m.read j := by
  induction l generalizing m k with
  | nil => rw [if_neg (by simp)]; rfl
  | cons v l ih =>
    show ((m.write k v).writeAll (k + 1) l).read j = _
    rw [ih (wf_write h k v), read_write h]
    by_cases hj : j = k
    · subst hj
      rw [if_neg (by omega), if_pos rfl, if_pos ⟨Nat.le_refl _, by simp⟩]
      simp
    · by_cases hr : k ≤ j ∧ j < k + (v :: l).length
      · rw [if_pos hr, if_pos (by simp only [List.length_cons] at hr; omega)]
        have : j - k = (j - (k + 1)) + 1 := by omega
        rw [this]; rfl
      · rw [if_neg hr, if_neg (by simp only [List.length_cons] at hr; omega), if_neg hj]

/-- Canonical memories that read alike are equal. -/
theorem Memory.ext {m n : Memory} (hm : Memory.wf m) (hn : Memory.wf n) (h : ∀ k, m.read k = n.read k) : m = n := by
  induction m generalizing n with
  | nil =>
    cases n with
    | nil => rfl
    | cons d n =>
      have := h d.1
      simp only [Memory.read, ↓reduceIte] at this
      exact absurd this.symm (hn.2 d (.head _))
  | cons c m ih =>
    obtain ⟨a, b⟩ := c
    cases n with
    | nil =>
      have := h a
      simp only [Memory.read, ↓reduceIte] at this
      exact absurd this (hm.2 (a, b) (.head _))
    | cons d n =>
      obtain ⟨a', b'⟩ := d
      have hb : b ≠ 0 := hm.2 (a, b) (.head _)
      have hb' : b' ≠ 0 := hn.2 (a', b') (.head _)
      have ha : a = a' := by
        rcases Nat.lt_trichotomy a a' with hl | he | hl
        · have := h a
          rw [read_of_lt (m := (a', b') :: n) fun d hd => by
            rcases List.mem_cons.mp hd with rfl | hd
            · exact hl
            · exact Nat.lt_trans hl (wf_head hn d hd)] at this
          simp only [Memory.read, ↓reduceIte] at this
          exact absurd this hb
        · exact he
        · have := h a'
          rw [read_of_lt (m := (a, b) :: m) fun d hd => by
            rcases List.mem_cons.mp hd with rfl | hd
            · exact hl
            · exact Nat.lt_trans hl (wf_head hm d hd)] at this
          simp only [Memory.read, ↓reduceIte] at this
          exact absurd this.symm hb'
      subst ha
      have hbb : b = b' := by have := h a; simpa only [Memory.read, ↓reduceIte] using this
      subst hbb
      congr 1
      refine ih (wf_tail hm) (wf_tail hn) fun k => ?_
      by_cases hk : k = a
      · subst hk
        rw [read_of_lt (wf_head hm), read_of_lt (wf_head hn)]
      · have := h k
        simpa only [Memory.read, if_neg hk] using this

/-- The store after a queue entry is programmed. -/
theorem programEntry_store (s : State) (a : Nat) (data : Byte) (rest : List (BitVec 16 × Byte)) :
    (s.programEntry a data rest).cst.store = s.cst.store.write a (programmedByte s.cst.store a data) := by
  unfold State.programEntry
  dsimp only
  split
  · unfold State.clearLatch
    split <;> rfl
  · rfl

end Sys2Proof.Machine
end

