-- ==== Sys2Proof/Laws/Numbers.lean ====
section
/-! SUPPORT. `Steady` from `Keeps`, saturating counts as numbers, the free order as a permutation, and the draw of a
declaration number that is not retired (R62). -/

namespace Sys2Proof.Machine

theorem Keeps.steady {s t : State} (h : Keeps s t) : Steady s t :=
  ⟨h.now, h.pending, h.life, h.resets, h.loadCause, h.listenUntil, h.running, h.fiu, h.fanIn, h.spt, h.store,
    h.derating, h.exposure, h.exposed⟩

theorem Steady.trans {s t u : State} (h : Steady s t) (k : Steady t u) : Steady s u :=
  ⟨k.now.trans h.now, k.pending.trans h.pending, k.life.trans h.life, k.resets.trans h.resets,
    k.loadCause.trans h.loadCause, k.listenUntil.trans h.listenUntil, k.running.trans h.running, k.fiu.trans h.fiu,
    fun f => (k.fanIn f).trans (h.fanIn f), k.spt.trans h.spt, k.store.trans h.store, k.derating.trans h.derating,
    k.exposure.trans h.exposure, k.exposed.trans h.exposed⟩

theorem Ends.incBare {s t : State} (h : Ends s t) : t.inc.bare = s.inc.bare := h.inc

theorem satInc_toNat {w : Nat} (c : BitVec w) : (satInc c).toNat = min (2 ^ w - 1) (c.toNat + 1) := by
  have hw := c.isLt
  unfold satInc
  split
  · rename_i h
    rw [h, BitVec.toNat_allOnes]; omega
  · rename_i h
    have h1 : c.toNat ≠ 2 ^ w - 1 := fun e => h (BitVec.eq_of_toNat_eq (by rw [e, BitVec.toNat_allOnes]))
    rw [BitVec.toNat_add]
    cases w with
    | zero => omega
    | succ n =>
      have h2 : 2 ≤ 2 ^ (n + 1) := by rw [Nat.pow_succ]; have := Nat.two_pow_pos n; omega
      have h3 : (1 : BitVec (n + 1)).toNat = 1 := Nat.mod_eq_of_lt h2
      rw [h3, Nat.mod_eq_of_lt (by omega)]; omega

/-- The free order is an order of the same elements. -/
theorem shuffle_perm {α : Type} (key : Nat → Nat) (l : List α) : (shuffle key l).Perm l := by
  induction l with
  | nil => exact .nil
  | cons a l ih =>
    unfold shuffle
    refine (List.perm_insertIdx _ _ ?_).trans (ih.cons a)
    have h1 := ih.length_eq
    have h2 : key l.length % (l.length + 1) < l.length + 1 := Nat.mod_lt _ (Nat.succ_pos _)
    omega

/-! ## Declaration numbers (R62) -/

/-- The state after `n` advances of the declaration counter. -/
def State.advanced : Nat → State → State
  | 0, s => s
  | n + 1, s => s.advanceCounter.advanced n

theorem advanced_succ (n : Nat) (s : State) : s.advanced (n + 1) = (s.advanced n).advanceCounter := by
  induction n generalizing s with
  | zero => rfl
  | succ n ih => exact ih s.advanceCounter

theorem keeps_advanced (n : Nat) (s : State) : Keeps s (s.advanced n) := by
  induction n generalizing s with
  | zero => exact .refl s
  | succ n ih => exact (keeps_advanceCounter s).trans (ih _)

/-- After an advance the last number drawn is the low byte of a counter that is not full. -/
theorem lastDrawn_of_advanced (s : State) :
    s.advanceCounter.inc.declCounter = BitVec.allOnes 24
      ∨ s.advanceCounter.inc.lastDrawn = s.advanceCounter.inc.declCounter.setWidth 8 := by
  unfold State.advanceCounter
  split
  · rename_i h; exact .inl h
  · exact .inr rfl

theorem lastDrawn_advance (s : State) : s.advanceCounter.inc.lastDrawn =
    if s.inc.declCounter = BitVec.allOnes 24 then s.inc.lastDrawn + 1 else (s.inc.declCounter + 1).setWidth 8 := by
  unfold State.advanceCounter
  split <;> rfl

/-- One more advance gives the next number. -/
theorem lastDrawn_next (s : State) : s.advanceCounter.advanceCounter.inc.lastDrawn = s.advanceCounter.inc.lastDrawn + 1 := by
  rw [lastDrawn_advance s.advanceCounter]
  split
  · rfl
  · rename_i hf
    rw [(lastDrawn_of_advanced s).resolve_left hf]
    apply BitVec.eq_of_toNat_eq
    simp only [BitVec.toNat_setWidth, BitVec.toNat_add, BitVec.ofNat_eq_ofNat, BitVec.toNat_ofNat]
    omega

theorem lastDrawn_advanced (n : Nat) (s : State) :
    (s.advanced (n + 1)).inc.lastDrawn = s.advanceCounter.inc.lastDrawn + BitVec.ofNat 8 n := by
  induction n with
  | zero => show s.advanceCounter.inc.lastDrawn = _; simp
  | succ n ih =>
    rw [advanced_succ, advanced_succ, lastDrawn_next, ← advanced_succ, ih, BitVec.add_assoc]
    congr 1
    apply BitVec.eq_of_toNat_eq
    show (BitVec.ofNat 8 n + BitVec.ofNat 8 1).toNat = _
    simp only [BitVec.toNat_add, BitVec.toNat_ofNat]
    omega

/-- A draw that ends on a retired number made only retired draws. -/
theorem drawNumber_all_retired (n : Nat) (s : State)
    (h : (⟨s.own, (s.drawNumber (n + 1)).inc.lastDrawn⟩ : Identity) ∈ s.inc.retired) :
    ∀ i ≤ n, (⟨s.own, (s.advanced (i + 1)).inc.lastDrawn⟩ : Identity) ∈ s.inc.retired := by
  have k := keeps_advanceCounter s
  induction n generalizing s with
  | zero =>
    intro i hi
    obtain rfl : i = 0 := by omega
    unfold State.drawNumber at h
    split at h
    · exact h
    · exact h
  | succ n ih =>
    unfold State.drawNumber at h
    split at h
    · rename_i hc
      rw [List.contains_iff_mem] at hc
      have h' : (⟨s.advanceCounter.own, (s.advanceCounter.drawNumber (n + 1)).inc.lastDrawn⟩ : Identity)
          ∈ s.advanceCounter.inc.retired := by rw [k.own, k.retired]; exact h
      have hi := ih s.advanceCounter h' (keeps_advanceCounter _)
      intro i hle
      cases i with
      | zero => rw [k.retired] at hc; exact hc
      | succ i =>
        have := hi i (by omega)
        rw [k.own, k.retired] at this
        exact this
    · rename_i hc
      exact absurd (List.contains_iff_mem.mpr (by rw [k.retired]; exact h)) hc

/-- The number drawn is not retired: nine numbers in a row cannot all be among at most eight identities. -/
theorem drawNumber_fresh (s : State) (h : s.inc.retired.length ≤ 8) :
    (⟨s.own, (s.drawNumber drawBound).inc.lastDrawn⟩ : Identity) ∉ s.inc.retired := by
  intro hm
  have ha := drawNumber_all_retired 8 s hm
  have hn : ((List.range 9).map fun i => (⟨s.own, (s.advanced (i + 1)).inc.lastDrawn⟩ : Identity)).Nodup := by
    refine List.Nodup.map_on (fun i hi j hj e => ?_) List.nodup_range
    rw [List.mem_range] at hi hj
    have e' := congrArg Identity.number e
    simp only [lastDrawn_advanced] at e'
    have e'' : BitVec.ofNat 8 i = BitVec.ofNat 8 j := by
      have := congrArg (fun x => x - s.advanceCounter.inc.lastDrawn) e'
      simpa [BitVec.add_comm, BitVec.add_sub_cancel] using this
    have := congrArg BitVec.toNat e''
    simp only [BitVec.toNat_ofNat] at this
    omega
  have hs : ((List.range 9).map fun i => (⟨s.own, (s.advanced (i + 1)).inc.lastDrawn⟩ : Identity)) ⊆ s.inc.retired := by
    intro x hx
    obtain ⟨i, hi, rfl⟩ := List.mem_map.mp hx
    rw [List.mem_range] at hi
    exact ha i (by omega)
  have := (List.subperm_of_subset hn hs).length_le
  simp at this
  omega

end Sys2Proof.Machine
end

