-- ==== Sys2Proof/Laws/Port.lean ====
section
/-! SUPPORT. What the end of a port cycle does (`endCycle`), what stands on PD before it, and that a latched setting is its
stored value limited to its range. -/

namespace Sys2Proof.Machine

/-- An ending edge with no cycle of its function and direction in progress ends nothing. -/
theorem endCycle_other {s : State} {fn : PortFn} {read : Bool} (act : State → State)
    (h : s.spt.cycle ≠ some ⟨fn, read⟩) : s.endCycle fn read act = s := if_neg h

/-- A cycle that must wait is discarded at its ending edge. -/
theorem endCycle_waits {s : State} {fn : PortFn} {read : Bool} (act : State → State)
    (h : s.spt.cycle = some ⟨fn, read⟩) (hw : s.mustWait fn read = true) :
    s.endCycle fn read act = s.discard read := by
  rw [State.endCycle, if_pos h, if_pos hw]

/-- A cycle that need not wait is acted on at its ending edge. -/
theorem endCycle_acts {s : State} {fn : PortFn} {read : Bool} (act : State → State)
    (h : s.spt.cycle = some ⟨fn, read⟩) (hw : s.mustWait fn read = false) :
    s.endCycle fn read act = act (s.modSpt fun x => { x with cycle := none }) := by
  rw [State.endCycle, if_pos h, hw, if_neg Bool.false_ne_true]

/-- The port drives PD in a read cycle exactly while PRDY is high. -/
theorem drivenByte_isSome {s : State} {fn : PortFn} (h : s.spt.cycle = some ⟨fn, true⟩) :
    s.drivenByte.isSome = s.prdy := by
  unfold State.drivenByte State.prdy
  rw [h]
  dsimp only
  split
  · next hw => rw [hw]; rfl
  · next hw => rw [Bool.eq_false_iff.mpr hw]; cases fn <;> rfl

theorem limited_clampNat {v lo hi : Nat} (h : lo ≤ hi) : Limited v lo hi (clampNat v lo hi) := by
  unfold Limited clampNat
  omega

/-- A numeric setting is latched as stored when it lies in its range. -/
theorem limited_latch (r : Numeric) (m : Memory) (h : r.lo ≤ r.hi) : Limited (r.raw m) r.lo r.hi (r.latch m) :=
  limited_clampNat h

end Sys2Proof.Machine
end

