-- ==== Sys2Proof/Laws/Reception.lean ====
section
/-! SUPPORT. What a received body runs and what a delivery leaves of the Section View (R30, R31); what forming a record,
becoming lead and an INCIDENT frame handed over write to the Incident Controller. -/

namespace Sys2Proof.Machine

/-! ## A body and its delivery -/

/-- Every row of a body that is received whole runs `State.receive` on it. -/
theorem exec_bodyOf {c : Instr} {l k h p} (hb : bodyOf c = some (l, k, h, p)) (s : State) :
    exec c s = .next (s.receive l k h p) := by
  cases c <;> simp only [bodyOf, Option.some.injEq, Prod.mk.injEq, reduceCtorEq] at hb <;>
    try (obtain ⟨rfl, rfl, rfl, rfl⟩ := hb; rfl)
  case discardedBody m body cut =>
    cases cut <;> simp only [reduceCtorEq, Option.map_eq_some_iff, Prod.mk.injEq] at hb
    obtain ⟨⟨a, b, c⟩, h1, rfl, rfl, rfl, rfl⟩ := hb
    simp [exec, execDiscardedBody, h1]

/-- The gateway table, every peer's entry and the observed part of the own entry stand. -/
structure ViewKept (s t : State) : Prop where
  run  : t.running = s.running
  gate : t.svt.gateways = s.svt.gateways
  peer : ∀ k, entryIdx k ≠ entryIdx s.own → t.entry k = s.entry k
  own  : (t.entry s.own).observed = (s.entry s.own).observed

theorem ViewKept.trans {s t u : State} (h : ViewKept s t) (k : ViewKept t u) : ViewKept s u :=
  ⟨k.run.trans h.run, k.gate.trans h.gate,
    fun j hj => (k.peer j (by rw [own_congr h.run]; exact hj)).trans (h.peer j hj),
    by have := k.own; rw [own_congr h.run] at this; exact this.trans h.own⟩

theorem ViewKept.ofKeeps {s t : State} (h : Keeps s t) : ViewKept s t :=
  ⟨h.running, h.gateways, h.peerEntry, h.ownEntry⟩

theorem ViewKept.ofEq {s t : State} (h : t.svt = s.svt) (r : t.running = s.running) : ViewKept s t :=
  ⟨r, by rw [h], fun k _ => by simp [State.entry, h], by simp [State.entry, h]⟩

theorem ViewKept.refl (s : State) : ViewKept s s := ViewKept.ofEq rfl rfl

theorem ViewKept.gateway {s t : State} (h : ViewKept s t) (g : Nat) : t.gateway g = s.gateway g := by
  simp [State.gateway, h.gate]

theorem viewKept_deliverIncident (s : State) (o : Nat) (p : List Byte) : ViewKept s (s.deliverIncident o p) := by
  unfold State.deliverIncident
  split
  · exact ViewKept.ofEq rfl rfl
  · exact ViewKept.ofKeeps (keeps_handleIncident ..)

theorem viewKept_deliverClaim (s : State) (k : Nat) (p : List Byte) : ViewKept s (s.deliverClaim k p) := by
  unfold State.deliverClaim
  split
  · exact ViewKept.ofEq rfl rfl
  · split
    · split <;> exact (ViewKept.ofEq (by rfl) (by rfl)).trans (ViewKept.ofKeeps (keeps_judgeGrant _))
    · exact ViewKept.refl s

theorem viewKept_standDown (s : State) (id : Identity) : ViewKept s (s.standDown id) := by
  unfold State.standDown
  dsimp only
  split
  · let u := (s.modInc fun x => { x with retired := retire x.retired id }).modInc fun x => x.releaseAll.clearHeld
    have e : ViewKept s u := ViewKept.ofEq rfl rfl
    have h : ViewKept s u.removePlan := e.trans (ViewKept.ofKeeps (ends_removePlan u).toKeeps)
    exact h.trans (forFans_rel ViewKept.refl ViewKept.trans (fun s f => s.modFan f fun x => { x with faultCount := 0 })
      (fun s f => ViewKept.ofEq rfl rfl) _)
  · exact ViewKept.ofEq rfl rfl

theorem viewKept_ruleOfKind (s : State) (g : Nat) (m : BitVec 8) (o : Order) (t : State)
    (h : s.ruleOfKind g m o = some t) : ViewKept s t := by
  unfold State.ruleOfKind at h
  split at h
  · cases h
    unfold State.operatorRecord
    dsimp only
    have h0 : ViewKept s (s.modInc fun x => { x with operator := ⟨.alarm, true, false, none⟩ }) := ViewKept.ofEq rfl rfl
    split
    · split
      · exact h0.trans (ViewKept.ofEq rfl rfl)
      · exact h0
    · split
      · exact h0.trans (ViewKept.ofKeeps (keeps_formRecord ..))
      · split
        · exact h0.trans (ViewKept.ofKeeps (keeps_formRecord ..))
        · exact h0
  · unfold State.forceDirection at h
    split at h
    · cases h
    · split at h
      · cases h
        split
        · exact ViewKept.refl s
        · exact ViewKept.ofKeeps (keeps_competeTriple ..)
      · cases h
  · cases h; exact viewKept_standDown s _
  · cases h; split
    · unfold State.setInhibit; split <;> first | exact ViewKept.refl s | exact ViewKept.ofEq rfl rfl
    · exact ViewKept.refl s
  · cases h; split
    · unfold State.setInhibit; split <;> first | exact ViewKept.refl s | exact ViewKept.ofEq rfl rfl
    · exact ViewKept.refl s
  · split at h
    · split at h
      · cases h
      · cases h; exact ViewKept.ofEq rfl rfl
    · cases h; exact ViewKept.refl s
  · cases h; split
    · exact ViewKept.ofEq rfl rfl
    · exact ViewKept.refl s

/-- An order changes the executed number of its gateway alone (R153). -/
theorem viewKept_deliverOrder (s : State) (g : Nat) (p : List Byte) :
    ViewKept s (s.deliverOrder g p) ∨ ∃ t m, ViewKept s t ∧ s.deliverOrder g p = t.recordOrder g m := by
  unfold State.deliverOrder
  split
  · exact .inl (ViewKept.ofEq rfl rfl)
  · split
    · exact .inl (ViewKept.ofEq rfl rfl)
    · unfold State.judgeOrder
      split
      · exact .inl (ViewKept.ofEq rfl rfl)
      · split
        · rename_i t ht
          exact .inr ⟨t, _, viewKept_ruleOfKind _ _ _ _ _ ht, rfl⟩
        · exact .inl (ViewKept.ofEq rfl rfl)

theorem view_handOver (s : State) (k : TxKind) (p : List Byte) :
    (s.handOver k p).svt = s.svt ∧ (s.handOver k p).running = s.running := by
  unfold State.handOver; split <;> exact ⟨rfl, rfl⟩

theorem view_resendClaim (s : State) : s.resendClaim.svt = s.svt ∧ s.resendClaim.running = s.running := by
  unfold State.resendClaim; split
  · exact ⟨rfl, rfl⟩
  · exact ⟨rfl, rfl⟩
  · unfold State.restartResend State.sendClaim; exact view_handOver _ _ _

theorem view_validPeer (s : State) (l : LineId) :
    (s.validPeer l).svt = s.svt ∧ (s.validPeer l).running = s.running ∧ (s.validPeer l).now = s.now := by
  have k (x : State) : Keeps x x.resendClaim := (ends_resendClaim x).toKeeps
  unfold State.validPeer State.lineUp
  have h0 : ∀ g : Line → Line,
      (s.modLine l g).svt = s.svt ∧ (s.modLine l g).running = s.running ∧ (s.modLine l g).now = s.now := by
    intro g; cases l <;> exact ⟨rfl, rfl, rfl⟩
  split
  · exact h0 _
  · exact ⟨(view_resendClaim _).1.trans (h0 _).1, (view_resendClaim _).2.trans (h0 _).2.1, (k _).now.trans (h0 _).2.2⟩
  · split
    · exact ⟨(view_resendClaim _).1.trans (h0 _).1, (view_resendClaim _).2.trans (h0 _).2.1, (k _).now.trans (h0 _).2.2⟩
    · exact h0 _

theorem entryIdx_inj {n a b : Nat} (hn : n ≤ 96) (ha : isSection n a = true) (hb : isSection n b = true)
    (h : entryIdx a = entryIdx b) : a = b := by
  simp only [isSection, Bool.and_eq_true, decide_eq_true_eq] at ha hb
  simp only [entryIdx, Fin.ofNat, Fin.mk.injEq] at h
  omega

theorem gatewayIdx_inj {a b : Nat} (ha : 97 ≤ a) (ha' : a ≤ 100) (hb : 97 ≤ b) (hb' : b ≤ 100)
    (h : gatewayIdx a = gatewayIdx b) : a = b := by
  simp only [gatewayIdx, Fin.ofNat, Fin.mk.injEq] at h
  omega

theorem observed_fields {e f : Entry} (h : e.observed = f.observed) :
    e.origin = f.origin ∧ e.heard1 = f.heard1 ∧ e.heard2 = f.heard2 := by
  simp only [Entry.observed, Entry.mk.injEq] at h
  exact ⟨h.2.2.1, h.2.2.2.1, h.2.2.2.2.1⟩

/-- Delivery keeps every origin record and heard-on time; only a report writes an entry, and only its section's; only an
order writes a gateway's row, and only its gateway's. -/
theorem view_deliver (w : State) (k : FrameKind) (o : Nat) (p : List Byte) :
    (k ≠ .sectionReport → ∀ j, entryIdx j ≠ entryIdx w.own → (w.deliver k o p).entry j = w.entry j)
    ∧ (∀ j, entryIdx j ≠ entryIdx w.own → entryIdx j ≠ entryIdx o → (w.deliver k o p).entry j = w.entry j)
    ∧ (∀ j, ((w.deliver k o p).entry j).origin = (w.entry j).origin
        ∧ ((w.deliver k o p).entry j).heard1 = (w.entry j).heard1
        ∧ ((w.deliver k o p).entry j).heard2 = (w.entry j).heard2)
    ∧ (k ≠ .order → ∀ g, (w.deliver k o p).gateway g = w.gateway g)
    ∧ (∀ g, gatewayIdx g ≠ gatewayIdx o → (w.deliver k o p).gateway g = w.gateway g)
    ∧ (∀ g, ((w.deliver k o p).gateway g).origin = (w.gateway g).origin)
    ∧ (w.deliver k o p).running = w.running := by
  have fields : ∀ {a b : State}, ViewKept a b → ∀ j, (b.entry j).origin = (a.entry j).origin
        ∧ (b.entry j).heard1 = (a.entry j).heard1 ∧ (b.entry j).heard2 = (a.entry j).heard2 := by
    intro a b h j
    by_cases e : entryIdx j = entryIdx a.own
    · have := observed_fields h.own
      simpa [State.entry, e] using this
    · rw [h.peer j e]; exact ⟨rfl, rfl, rfl⟩
  have ofKept : ∀ {t : State}, ViewKept w t → (∀ j, entryIdx j ≠ entryIdx w.own → t.entry j = w.entry j)
    ∧ (∀ j, (t.entry j).origin = (w.entry j).origin ∧ (t.entry j).heard1 = (w.entry j).heard1
        ∧ (t.entry j).heard2 = (w.entry j).heard2)
    ∧ (∀ g, t.gateway g = w.gateway g) ∧ t.running = w.running := fun h => ⟨h.peer, fields h, h.gateway, h.run⟩
  cases k with
  | incident =>
    obtain ⟨a, b, c, d⟩ := ofKept (viewKept_deliverIncident w o p)
    exact ⟨fun _ => a, fun j hj _ => a j hj, b, fun _ => c, fun g _ => c g, fun g => congrArg _ (c g), d⟩
  | startClaim =>
    obtain ⟨a, b, c, d⟩ := ofKept (viewKept_deliverClaim w o p)
    exact ⟨fun _ => a, fun j hj _ => a j hj, b, fun _ => c, fun g _ => c g, fun g => congrArg _ (c g), d⟩
  | sectionReport =>
    show _ ∧ _
    simp only [State.deliver, ne_eq, not_true_eq_false, false_implies, true_and]
    unfold State.deliverReport
    split
    · obtain ⟨a, b, c, d⟩ := ofKept (t := w.setSvt { w.svt with rejected := satInc w.svt.rejected })
        ⟨rfl, rfl, fun _ _ => rfl, rfl⟩
      exact ⟨fun j hj _ => a j hj, b, fun _ => c, fun g _ => c g, fun g => congrArg _ (c g), d⟩
    · rename_i r hr
      let w1 := w.modEntry o fun e => e.write w.now p r (w.running.map Running.tag)
      have h1 : ViewKept w1 (if w1.viewConditions o = w.viewConditions o then w1 else w1.viewChange) := by
        split
        · exact ViewKept.refl _
        · exact ViewKept.ofKeeps (keeps_viewChange _)
      have e1 : ∀ j, (w1.entry j).origin = (w.entry j).origin
          ∧ (w1.entry j).heard1 = (w.entry j).heard1 ∧ (w1.entry j).heard2 = (w.entry j).heard2 := by
        intro j
        show ((State.modEntry _ _ _).entry j).origin = _ ∧ _
        simp only [w1, entry_modEntry]
        split
        · rename_i e; simp [State.entry, e, Entry.write]
        · exact ⟨rfl, rfl, rfl⟩
      have g1 : ∀ g, (if w1.viewConditions o = w.viewConditions o then w1 else w1.viewChange).gateway g
          = w.gateway g := fun g => h1.gateway g
      refine ⟨fun j hj ho => ?_, fun j => ?_, fun _ g => g1 g, fun g _ => g1 g, fun g => congrArg _ (g1 g), h1.run⟩
      · rw [h1.peer j hj]; simp only [w1, entry_modEntry, if_neg ho]
      · have a := fields h1 j; have b := e1 j
        exact ⟨a.1.trans b.1, a.2.1.trans b.2.1, a.2.2.trans b.2.2⟩
  | order =>
    simp only [State.deliver]
    obtain h | ⟨t, m, h, e⟩ := viewKept_deliverOrder w o p
    · obtain ⟨a, b, c, d⟩ := ofKept h
      exact ⟨fun _ => a, fun j hj _ => a j hj, b, fun _ => c, fun g _ => c g, fun g => congrArg _ (c g), d⟩
    · rw [e]
      obtain ⟨a, b, c, d⟩ := ofKept h
      have gg : ∀ g, (t.recordOrder o m).gateway g =
          if gatewayIdx g = gatewayIdx o then { t.gateway o with executed := some m } else t.gateway g := by
        intro g
        exact gateway_modGateway t o g fun x => { x with executed := some m }
      refine ⟨fun _ => a, fun j hj _ => a j hj, b, fun h => absurd rfl h, fun g hg => ?_, fun g => ?_, d⟩
      · rw [gg, if_neg hg]; exact c g
      · rw [gg]; split
        · rename_i e; rw [c]; simp [State.gateway, e]
        · rw [c]

/-! ## The Incident Controller -/

theorem inc_actOnTargets (s : State) : s.actOnTargets.inc = s.inc := by
  unfold State.actOnTargets
  have r := fun g hg s => forFans_rel (R := fun s t => t.inc = s.inc) (fun _ => rfl) (fun h k => k.trans h) g hg s
  refine (r _ ?_ _).trans (r _ (fun s f => (touches_changeTarget s f _).inc) s)
  intro s f
  unfold State.leaveOff; split
  · split
    · rfl
    · exact (touches_runPath _ _ _).inc
  · rfl

theorem inc_endVentForIncident (s : State) : s.endVentForIncident.inc = s.inc := by
  unfold State.endVentForIncident
  split
  · rfl
  · split
    · exact inc_actOnTargets _
    · rfl

theorem inc_setIncState (s : State) (st : IncState) : (s.setIncState st).inc = { s.inc with state := st } := by
  unfold State.setIncState
  split
  · rename_i h; rw [← h]
  · rfl

/-- An INCIDENT frame handed over restarts the declarer timer of the own identity (R68). -/
theorem inc_sendIncident (s : State) (h : Held) (e : s.inc.held = some h) :
    s.sendIncident.inc = { s.inc with
      declarerDue := if h.id.station = s.own then some (s.now + Config.declarerPeriod) else s.inc.declarerDue } := by
  unfold State.sendIncident
  split
  · rename_i e2; rw [e] at e2; cases e2
  · rename_i e2; rw [e] at e2; cases e2
    dsimp only
    by_cases g : h.id.station = s.own
    · simp [g, State.setInc]
    · simp [g, inc_handOver]

/-- What forming a record writes (R74), up to the judging of the lead. -/
theorem formRecord_eq (s : State) (id : Identity) (v : Nat) (t : Triple) (l : Nat) :
    ∃ b : State, s.formRecord id v t l = b.reevalLead ∧ Keeps s b ∧ b.inc = { s.inc with
      state := .declared, held := some ⟨id, v, t, l, none, none⟩, alertClear := none, guardUntil := none
      declarerDue := none, lead := false, controlDue := none, sourceUntil := none, leadVc := none } :=
  ⟨_, rfl, ((keeps_modInc s _ rfl).trans (keeps_endVentForIncident _)).trans (keeps_wantPlan _),
    inc_endVentForIncident _⟩

/-- What becoming lead writes (R86): the demand in use with the node as its source, and the control interval. -/
theorem inc_becomeLead (r : State) (k : Held) (hk : r.inc.held = some k) :
    ∃ dd, r.becomeLead.inc = { r.inc with
        held := some { k with demand := some ⟨r.demandInUse k, some ⟨r.own, r.now, 0⟩, none⟩ }
        lead := true, leadVc := none, controlDue := some (r.now + Config.controlInterval)
        sourceUntil := some (sourceEnd r.now), state := .controlled, declarerDue := dd }
      ∧ (k.id.station ≠ r.own → dd = r.inc.declarerDue) := by
  unfold State.becomeLead
  rw [hk]
  dsimp only
  unfold State.sendIncidentNow
  generalize hq : ((r.modInc fun x => { x with
      held := some { k with demand := some ⟨r.demandInUse k, some ⟨r.own, r.now, 0⟩, none⟩ }
      lead := true, leadVc := none
      controlDue := some (r.now + Config.controlInterval)
      sourceUntil := some (sourceEnd r.now) }).setIncState .controlled).wantPlan = q
  have hi : q.inc = { r.inc with
      held := some { k with demand := some ⟨r.demandInUse k, some ⟨r.own, r.now, 0⟩, none⟩ }
      lead := true, leadVc := none, controlDue := some (r.now + Config.controlInterval)
      sourceUntil := some (sourceEnd r.now), state := .controlled } := by
    rw [← hq]; show (State.setIncState _ _).inc = _; rw [inc_setIncState]; rfl
  have hr : q.own = r.own := by
    apply own_congr; rw [← hq]; show (State.setIncState _ _).running = _
    unfold State.setIncState; split <;> rfl
  show ∃ dd, q.sendIncident.inc = _ ∧ _
  rw [inc_sendIncident q _ (by rw [hi])]
  refine ⟨if k.id.station = q.own then some (q.now + Config.declarerPeriod) else q.inc.declarerDue, ?_, ?_⟩
  rotate_left
  · intro h; rw [if_neg (by rw [hr]; exact h), hi]
  · rw [hi]

end Sys2Proof.Machine
end

