-- ==== Sys2Proof/WellFormed.lean ====
section
/-! DEFINITION. Which terms of `Instr` spell a command that can occur: section numbers 1..96, payload lengths of
the frame kinds (R21), at most 36 kept body bytes and 120 µs of idle time at noise (R20), an undefined order kind that is undefined (R173). The
meanings do not rest on it: each is total. -/

namespace Sys2Proof

/-- A section index (spec/00 Stations: 1..96). -/
def sectionOk (k : Nat) : Bool := 1 ≤ k && k ≤ 96

/-- The payload has the length of its kind (R21). -/
def Frame.lengthOk (b : Frame) (n : Nat) : Bool := b.payload.length == n

/-- Bytes 2..8 of an ORDER payload (R174). -/
def OrderFrame.lengthOk (b : OrderFrame) : Bool := b.params.length == 7

/-- A kept body has at most 36 bytes (R20). -/
def bodyOk (body : List Byte) : Bool := body.length ≤ 36

/-- None of the seven order kinds (R173). -/
def kindUndefined (k : Byte) : Bool := k.toNat == 0 || 7 < k.toNat

/-- At noise a byte of the 160 µs has been read to its end (R19, R20). -/
def Noise.idleOk (l : Noise) : Bool := l.idle ≤ Config.noiseWindow - Config.byteTime

def Instr.wellFormed : Instr → Bool
  | .powerOnReset _ | .resetN _ | .load | .entryToRun | .sampleTimerExpiry => true
  | .anemometerEdge _ | .anemometerWatchExpiry | .periodChannelEdge _ | .periodChannelWatchExpiry _ => true
  | .callPointEdge _ | .tachometerEdge _ _ _ | .tachWindowTimerExpiry => true
  | .driveFaultInputChange _ _ | .driveFaultDebounceExpiry _ | .pwmPeriodBoundary _ => true
  | .lineNoise l => l.idleOk
  | .attemptStart _ _ | .attemptClean _ | .attemptCollision _ | .attemptEchoAbsent _ => true
  | .quietWatchExpiry _ | .probeTimerExpiry _ | .reportTimerExpiry => true
  | .sectionReport _ b => b.lengthOk 30
  | .entryAgeExpiry k => sectionOk k
  | .incident _ b => b.lengthOk 18
  | .startClaim _ b => b.lengthOk 4
  | .declare _ b | .forceDirection _ b | .standDown _ b | .inhibit _ b | .release _ b | .ventRun _ b
  | .ventStop _ b => b.lengthOk
  | .ventRunExpiry | .alertClearExpiry | .declarerTimerExpiry | .guardTimerExpiry => true
  | .controlIntervalExpiry | .sourceTimerExpiry => true
  | .brakeLimitExpiry _ | .staggerExpiry _ | .startLimitExpiry _ | .coastLimitExpiry _ | .faultHoldExpiry _ => true
  | .queueEntryExpiry k => sectionOk k
  | .resendTimerExpiry | .runMinuteElapsed _ => true
  | .portCycleBegin _ _ _ | .modeWrite _ | .modeRead _ | .pointerWrite _ | .pointerRead => true
  | .dataWriteAutoincrement _ _ | .dataWriteNoIncrement _ _ => true
  | .dataReadAutoincrement | .dataReadNoIncrement | .queueEntryProgrammed | .updateItemProgrammed => true
  | .discardedBody _ body _ => bodyOk body
  | .undefinedOrderKind _ k b => kindUndefined k && b.lengthOk

end Sys2Proof
end

