-- ==== Sys2Proof/Tests/Slice0.lean ====
section
/-! SUPPORT. Own tests: ill-formed terms that `wellFormed` refuses, the manual's worked numbers, one step of each shape on
a small state, and for every statement with hypotheses a state and operands that meet them, at the clauses' bounds. -/

namespace Sys2Proof.Tests

open Sys2Proof Sys2Proof.Machine

set_option Elab.async false

/-! ## Small states -/

def fanT : FanSettings := ⟨120, 1470, 2, 85⟩

/-- Section 5 of 12, two fans. -/
def cfgT : Settings :=
  { Settings.blank with
    n := 12, vt := 300, kp := 64, ki := 16, initialDemand := 25, u := 1, d := 2, startsLimit := 2, exposure := 250
    smokePre := 300, smokeAlarm := 800, smokeConfirm := 10, heatPre := 60, heatAlarm := 80, riseAlarm := 20
    guard := 60, own := 5, group := 4, installed := 2, fans := #v[fanT, fanT, fanT, fanT], startLimit := 60
    sMin := 30, calAnemo := ⟨3000, -98304000⟩, calSmoke := ⟨65536, 0⟩, calTemp := ⟨32768, -2621440⟩ }

/-- The own entry of a node in RUN that has formed no availability. -/
def ownReportT : Report :=
  { Report.unwritten with life := .run, installed := 2, healthy := 2, group := 4, tag := 0x1234 }

/-- A node in RUN, 100 s after power-on, nothing heard. -/
def node : State :=
  { State.reset with
    now := sec 100, life := .run, running := some ⟨cfgT, [], 0x1234, 0, 0⟩
    svt := { Svt.atReset with entries := Svt.atReset.entries.set 4 { Entry.empty with report := ownReportT } } }

def listening : State := { node with life := .listen, listenUntil := some (sec 100) }

/-- The state after a command has the property. -/
def after (c : Instr) (s : State) (p : State → Bool) : Bool :=
  match exec c s with
  | .next t => p t
  | _ => false

def withFan (f : FanId) (x : Fan) (s : State) : State := s.modFan f fun _ => x
def withInc (x : Inc) (s : State) : State := { s with inc := x }
def withLine (l : LineId) (x : Line) (s : State) : State := s.setLine l x
def withPort (x : Spt) (s : State) : State := { s with spt := x }

def bodyWith (k : FrameKind) (o : Nat) (q : Byte) (p : List Byte) : Frame :=
  ⟨byteOf o, q, 0, p, BitVec.ofNat 16 (frameCheck k (byteOf o) q 0 p)⟩

def orderWith (kind : Byte) (g : Nat) (number : Byte) (params : List Byte) : OrderFrame :=
  ⟨byteOf g, 1, 0, number, params,
    BitVec.ofNat 16 (frameCheck .order (byteOf g) 1 0 (kind :: number :: params))⟩

def idT : Identity := ⟨8, 23⟩

/-- An incident at section 8, declared by section 8 with smoke, toward B. -/
def heldT : Held := ⟨idT, 1, ⟨.towardB, 7, 8⟩, 8, none, none⟩

def declaredNode : State := withInc { Inc.atReset with state := .declared, held := some heldT } node

/-! ## Ill-formed terms -/

def frameT (n : Nat) : Frame := ⟨3, 0, 0, List.replicate n 0, 0⟩
def orderT (n : Nat) : OrderFrame := ⟨97, 0, 0, 1, List.replicate n 0, 0⟩

theorem test_wellFormed_refuses_sections : (Instr.entryAgeExpiry 0).wellFormed = false
    ∧ (Instr.entryAgeExpiry 97).wellFormed = false ∧ (Instr.queueEntryExpiry 0).wellFormed = false
    ∧ (Instr.queueEntryExpiry 97).wellFormed = false ∧ (Instr.entryAgeExpiry 96).wellFormed = true
    ∧ (Instr.queueEntryExpiry 1).wellFormed = true := by decide

theorem test_wellFormed_refuses_noise : (Instr.lineNoise ⟨.l1, 121⟩).wellFormed = false
    ∧ (Instr.lineNoise ⟨.l2, 120⟩).wellFormed = true := by decide

theorem test_wellFormed_refuses_lengths : (Instr.sectionReport .l1 (frameT 29)).wellFormed = false
    ∧ (Instr.sectionReport .l1 (frameT 30)).wellFormed = true ∧ (Instr.incident .l1 (frameT 17)).wellFormed = false
    ∧ (Instr.incident .l1 (frameT 18)).wellFormed = true ∧ (Instr.startClaim .l2 (frameT 5)).wellFormed = false
    ∧ (Instr.startClaim .l2 (frameT 4)).wellFormed = true := by decide

theorem test_wellFormed_refuses_orders : (Instr.declare .l1 (orderT 6)).wellFormed = false
    ∧ (Instr.forceDirection .l1 (orderT 8)).wellFormed = false ∧ (Instr.standDown .l1 (orderT 6)).wellFormed = false
    ∧ (Instr.inhibit .l1 (orderT 6)).wellFormed = false ∧ (Instr.release .l1 (orderT 6)).wellFormed = false
    ∧ (Instr.ventRun .l1 (orderT 6)).wellFormed = false ∧ (Instr.ventStop .l1 (orderT 6)).wellFormed = false
    ∧ (Instr.declare .l1 (orderT 7)).wellFormed = true := by decide

theorem test_wellFormed_refuses_kinds : (Instr.undefinedOrderKind .l1 1 (orderT 7)).wellFormed = false
    ∧ (Instr.undefinedOrderKind .l1 7 (orderT 7)).wellFormed = false
    ∧ (Instr.undefinedOrderKind .l1 8 (orderT 6)).wellFormed = false
    ∧ (Instr.undefinedOrderKind .l1 8 (orderT 7)).wellFormed = true
    ∧ (Instr.discardedBody .l1 (List.replicate 37 0) true).wellFormed = false
    ∧ (Instr.discardedBody .l1 (List.replicate 36 0) true).wellFormed = true := by decide

/-! ## The manual's numbers -/

/-- The check code of the nine digits (spec/00). -/
theorem test_crc_of_digits :
    crc16 [0x31, 0x32, 0x33, 0x34, 0x35, 0x36, 0x37, 0x38, 0x39] = 0x29B1 := by decide +kernel

theorem test_round_half_away : roundHalfAway 3 2 = 2 ∧ roundHalfAway (-3) 2 = -2 ∧ roundHalfAway 5 4 = 1
    ∧ roundHalfAway (-5) 4 = -1 := by decide

/-- Calibration of a raw value (R8). -/
theorem test_calibration : calibrate ⟨3000, -98304000⟩ 39321 (-2000) 2000 = 300
    ∧ calibrate ⟨3000, -98304000⟩ 10000 (-2000) 2000 = -1042
    ∧ calibrate ⟨32768, -2621440⟩ 400 (-40) 1200 = 160 := by decide

/-- Serial comparison (spec/00). -/
theorem test_serial_comparison : newer 1 0 = true ∧ newer 0 1 = false ∧ newer 127 0 = true ∧ newer 128 0 = false
    ∧ newer 0 255 = true ∧ newer 5 5 = false := by decide

/-- The span of an incident at section 8 with u = 1 and d = 2 (R83). -/
theorem test_span : spanLo cfgT .towardB 8 = 7 ∧ spanHi cfgT .towardB 8 = 10 ∧ spanLo cfgT .towardA 8 = 6
    ∧ spanHi cfgT .towardA 8 = 9 ∧ spanLo cfgT .towardA 1 = 1 ∧ spanHi cfgT .towardB 12 = 12 := by decide

/-- A share of 300 daN over fans of 120 daN: three fans at 92 % (R105, R106). -/
theorem test_fan_plan : fanCount [120, 120, 120, 120] 30 300 = 3 ∧ planSpeed 3 120 30 300 = 92 := by decide +kernel

/-- NEAR_PORTAL in a tunnel of 12 (R67). -/
theorem test_near_portal : node.ruleDirection 6 = .towardA ∧ node.ruleDirection 7 = .towardB := by decide

def ruled (r : DirectionRule) (v : Int) : State :=
  { node with
    running := some ⟨{ cfgT with rule := r, dflt := .towardA }, [], 0x1234, 0, 0⟩
    svt := { Svt.atReset with
      entries := Svt.atReset.entries.set 2 { Entry.empty with
        state := .fresh, tagMatch := true, report := { Report.unwritten with velocity := some v } } } }

/-- The other rules; a draught at ± 50 cm/s and inside it. -/
theorem test_direction_rules : (ruled .fixedA 0).ruleDirection 9 = .towardA ∧ (ruled .fixedB 0).ruleDirection 2 = .towardB
    ∧ (ruled .followDraught 50).ruleDirection 2 = .towardB ∧ (ruled .followDraught 49).ruleDirection 2 = .towardA
    ∧ (ruled .followDraught (-50)).ruleDirection 2 = .towardA := by decide +kernel

theorem test_median : median [3, 1, 2] = some 2 ∧ median [4, 1] = some 2 ∧ median [-4, -1] = some (-2)
    ∧ median [] = none := by decide

/-! ## The machine -/

theorem test_front_command : { State.reset with pending := [.load] }.pending = .load :: [] := rfl

theorem test_idle_due : State.reset.pending = [] ∧ State.reset.due = [.load] ∧ State.reset.now = 0 := by decide +kernel

def holding (power resetN : Bool) (s : State) : State := { s with resets := ⟨power, resetN⟩ }

theorem test_idle_not_due : (holding true false State.reset).pending = [] ∧ (holding true false State.reset).due = []
    ∧ (holding false true State.reset).due = [] := by decide +kernel

theorem test_no_word_is_a_command : decodeTableWord 8 0 = none ∧ State.reset.withFetchWord 8 0 = State.reset := by
  decide +kernel

/-- A stray expiry: its timer does not run. -/
theorem test_not_due : timerDriven (.coastLimitExpiry 0) = true ∧ node.falls (.coastLimitExpiry 0) = false
    ∧ timerDriven .load = true ∧ node.falls .load = false ∧ timerDriven .pointerRead = false := by decide +kernel

/-! ## Node life -/

theorem test_resets_either_way : node.resetHeld = false ∧ node.resets = ⟨false, false⟩
    ∧ (holding true false node).resetHeld = true ∧ (holding false true node).resetHeld = true := ⟨rfl, rfl, rfl, rfl⟩

/-- Power-on reset released while RESET_N stays low, asserted before or not, and RESET_N released while power-on reset stays
in force: PRDY low and LOAD not due. The last release lets LOAD begin. -/
theorem test_overlapping_resets :
    let waits (s : State) (r : Resets) : Bool := s.resets == r && !s.prdy && !s.falls .load && s.life == .load
    after (.powerOnReset (.released pinsLow)) (holding true true node) (fun t => waits t ⟨false, true⟩
      && after (.resetN (.released pinsLow)) t fun u => u.falls .load && u.due == [.load]) = true
    ∧ after (.powerOnReset (.released pinsLow)) (holding false true node) (fun t => waits t ⟨false, true⟩) = true
    ∧ after (.resetN (.released pinsLow)) (holding true true node) (fun t => waits t ⟨true, false⟩) = true
    ∧ after (.resetN .asserted) node (fun t => waits t ⟨false, true⟩
      && after (.portCycleBegin true 0b00 true) t fun u => !u.prdy && u.spt.cycle == some ⟨.mode, true⟩) = true
    ∧ after (.powerOnReset (.released pinsLow)) node (fun t => t.falls .load) = true := by decide +kernel

/-- The check code with its running value evaluated at each byte, as long blocks need in the kernel. -/
def crcForced : List Byte → Nat → Nat
  | [], c => c
  | b :: l, c => if c = 65536 then 0 else crcForced l (crcByte c b)

theorem crcByte_lt (c : Nat) (b : Byte) : crcByte c b < 65536 := by
  unfold crcByte
  rw [crcBit]
  split <;> exact Nat.mod_lt _ (by decide)

theorem foldl_eq_crcForced (l : List Byte) : ∀ c, c < 65536 → l.foldl crcByte c = crcForced l c := by
  induction l with
  | nil => exact fun _ _ => rfl
  | cons b l ih =>
    intro c hc
    rw [List.foldl_cons, ih _ (crcByte_lt c b), crcForced, if_neg (Nat.ne_of_lt hc)]

theorem crc16_eq_crcForced (l : List Byte) : crc16 l = crcForced l 0xFFFF := foldl_eq_crcForced l _ (by decide)

/-- A store whose codes hold, with a tunnel size and an own section. -/
def storeOf (n own : Byte) : Memory :=
  let m : Memory := []
  let m := (m.writeAll 0x40 [120, 0]).writeAll 0x5A [own, 4, 4]
  let t := m.writeAll 0 [n, 0, 0, 0, 0, 0, 0, 0, 0, 0, 4, 2]
  (t.writeAll 0x3E (le16 (crcForced (t.bytes 0 62) 0xFFFF))).writeAll 0xBE (le16 (crcForced (t.bytes 0x40 126) 0xFFFF))

def loading (m : Memory) : State := { State.reset with cst := { Cst.blank with store := m } }

theorem test_load_conditions : State.reset.life = .load ∧ State.reset.resetHeld = false
    ∧ State.reset.cst.engine = none := ⟨rfl, rfl, rfl⟩

/-- Both ends of the tunnel size and of the section index. -/
theorem test_load_checks_pass : loadCheck (storeOf 4 1) = .none ∧ loadCheck (storeOf 96 96) = .none := by
  simp only [loadCheck, crc16_eq_crcForced]
  decide +kernel

theorem test_load_checks_fail : loadCheck [] = .tunnelCrc ∧ loadCheck ((storeOf 4 1).write 0x40 0) = .nodeCrc
    ∧ loadCheck (storeOf 3 1) = .tunnelSize ∧ loadCheck (storeOf 97 1) = .tunnelSize
    ∧ loadCheck (storeOf 4 0) = .sectionIndex ∧ loadCheck (storeOf 4 5) = .sectionIndex := by
  simp only [loadCheck, crc16_eq_crcForced]
  decide +kernel

theorem test_load_runs : ∃ t, exec .load (loading (storeOf 4 1)) = .next t ∧ t.life = .listen ∧ t.own = 1
    ∧ t.cfg.rule = .nearPortal ∧ t.cfg.dflt = .towardB ∧ t.cfg.vt = 150 := by
  have h : loadCheck (loading (storeOf 4 1)).cst.store = .none := test_load_checks_pass.1
  have hd : (loading (storeOf 4 1)).falls .load = true := by decide +kernel
  refine ⟨_, by rw [exec, execLoad, if_pos hd, h], ?_⟩
  decide +kernel

theorem test_latched_clauses : 3 < (storeOf 4 1).u8 0x0A ∧ 1 < (storeOf 4 1).u8 0x0B
    ∧ (3 : FanId).val < (latchRunning (storeOf 4 1)).settings.installed := by decide +kernel

/-- A value in its range, below it and above it; the ends of the codes. -/
theorem test_latched_bounds : (latchRunning (storeOf 4 1)).settings.fans[0].thrust = 120
    ∧ (latchRunning (storeOf 4 1)).settings.sMin = 20
    ∧ (latchRunning ((storeOf 4 1).writeAll 0x18 [200, 45, 1])).settings.riseAlarm = 100
    ∧ (latchRunning ((storeOf 4 1).writeAll 0x18 [200, 45, 1])).settings.guard = 300
    ∧ (latchRunning ((storeOf 4 1).writeAll 0x0A [0, 1])).settings.rule = .fixedA
    ∧ (latchRunning ((storeOf 4 1).writeAll 0x0A [0, 1])).settings.dflt = .towardA := by decide +kernel

def latchedHeat : State := withInc { Inc.atReset with state := .alert, heat := .latch } listening

theorem test_entry_to_run : listening.life = .listen ∧ isDue listening.now listening.listenUntil = true
    ∧ (listening.line .l1).state ≠ .down ∧ listening.inc.deferred = none
    ∧ latchedHeat.life = .listen ∧ isDue latchedHeat.now latchedHeat.listenUntil = true
    ∧ latchedHeat.inc.deferred = some 3 := by decide +kernel

theorem test_entry_to_run_declares : after .entryToRun latchedHeat (fun t => t.life == .run
    && (t.inc.held.map fun h => (h.id.station, h.severity)) == some (5, 3) && t.inc.declCounter == 1) = true := by
  decide +kernel

def latchedOver (h : Held) : State := { latchedHeat with inc := { latchedHeat.inc with state := .declared, held := some h } }

/-- The latch of severity 3 over no record, the own record of severity 1, a peer's of 1, and one of 3. -/
theorem test_entry_declares_by_case : (latchedOver heldT).inc.deferred = some 3 ∧ (latchedOver heldT).inc.retiredOk
    ∧ after .entryToRun latchedHeat (fun t => t.inc.state == .declared
      && t.inc.held.map Held.triple == some ⟨.towardA, 0, 5⟩) = true
    ∧ after .entryToRun (latchedOver { heldT with id := ⟨5, 9⟩ }) (fun t =>
      (t.inc.held.map fun h => (h.id, h.severity, h.locus, h.triple)) == some (⟨5, 9⟩, 3, 8, heldT.triple)) = true
    ∧ after .entryToRun (latchedOver heldT) (fun t =>
      (t.inc.held.map fun h => (h.id, h.severity, h.locus)) == some (⟨5, 1⟩, 3, 5)) = true
    ∧ after .entryToRun (latchedOver { heldT with severity := 3 }) (fun t =>
      (t.inc.held.map fun h => (h.id, h.severity, h.locus)) == some (idT, 3, 8)) = true := by
  unfold Inc.retiredOk
  decide +kernel

/-! ## The field inputs -/

def sampling (n : Nat) : State := { node with fiu := { node.fiu with sampleDue := some node.now, expiries := n } }

/-- An expiry that pushes the history, and one that does not. -/
theorem test_sample_due : (sampling 7).active = true ∧ isDue (sampling 7).now (sampling 7).fiu.sampleDue = true
    ∧ ((sampling 7).fiu.expiries + 1) % 8 = 0 ∧ ((sampling 8).fiu.expiries + 1) % 8 ≠ 0
    ∧ (sampling 7).installed 1 = true := by decide +kernel

theorem test_sample_forms_the_observation :
    (((sampling 7).sample.counted.consumeIn consumers).finish.entry 5).state = .fresh
      ∧ ((sampling 7).sample.counted.consumeIn consumers).finish.inc.smoke.state = .outOfService
      ∧ ((sampling 7).sample.counted.consumeIn consumers).finish.fiu.history.length = 1 := by decide +kernel

/-- A node due to sample, its temperature channel at a period, its exposure run begun at a time or not. -/
def heated (period : Nat) (run : Option Nat) : State :=
  { sampling 7 with
    fiu := { (sampling 7).fiu with temp := ⟨false, period, none, node.now⟩ }
    fch := { node.fch with exposureFrom := run } }

/-- At the exposure limit and 1 °C below it; a run not begun, 1 µs short of 10 s, and at 10 s. -/
theorem test_exposure_clauses : (heated 1724 none).tempNow = some 250 ∧ (heated 1730 none).tempNow = some 249
    ∧ node.cfg.exposure = 250 ∧ (heated 1724 none).fch.exposureFrom = none ∧ (heated 1724 none).installed 1 = true
    ∧ node.now < (node.now - ms 10000 + 1) + ms 10000 ∧ (node.now - ms 10000) + ms 10000 ≤ node.now
    ∧ (((heated 1724 (some (node.now - ms 10000))).observeExposure
        { (heated 1724 none).sample.fiu.obs.getD ⟨none, none, none, none, .ok, true, true, 0, []⟩ with
          temperature := some 250 }).fan 1).lockout = .exposure := by decide +kernel

/-- The smoke detector at its thresholds 300 and 800 and the confirm time 10 s. -/
theorem test_smoke_clauses : evalSmoke cfgT 9 (some 299) .normal = .normal
    ∧ evalSmoke cfgT 9 (some 300) .normal = ⟨.preAlarm, false, false, none⟩
    ∧ evalSmoke cfgT 9 (some 799) .normal = ⟨.preAlarm, false, false, none⟩
    ∧ evalSmoke cfgT 9 (some 800) .normal = ⟨.confirming, false, false, some 9⟩
    ∧ evalSmoke cfgT (sec 10 - 1) (some 800) ⟨.confirming, false, false, some 0⟩ = ⟨.confirming, false, false, some 0⟩
    ∧ evalSmoke cfgT (sec 10) (some 800) ⟨.confirming, false, false, some 0⟩ = .latch
    ∧ evalSmoke cfgT 9 none ⟨.confirming, false, false, some 0⟩ = ⟨.outOfService, false, false, none⟩
    ∧ evalSmoke cfgT 9 (some 0) .latch = .latch
    ∧ evalSmoke cfgT 9 (some 299) ⟨.alarm, false, true, none⟩ = .normal
    ∧ evalSmoke cfgT 9 (some 300) ⟨.outOfService, false, true, none⟩ = ⟨.alarm, false, true, none⟩ := by decide

/-- The heat detector at its thresholds 60 and 80, the run of 3 s and a rise of 20. -/
theorem test_heat_clauses : evalHeat cfgT 9 (some 59) (some 19) .normal = .normal
    ∧ evalHeat cfgT 9 (some 60) none .normal = ⟨.preAlarm, false, false, none⟩
    ∧ evalHeat cfgT 9 (some 80) none .normal = ⟨.preAlarm, false, false, some 9⟩
    ∧ evalHeat cfgT (sec 3 - 1) (some 80) none ⟨.preAlarm, false, false, some 0⟩ = ⟨.preAlarm, false, false, some 0⟩
    ∧ evalHeat cfgT (sec 3) (some 80) none ⟨.preAlarm, false, false, some 0⟩ = .latch
    ∧ evalHeat cfgT 9 (some 0) (some 20) .normal = .latch
    ∧ evalHeat cfgT 9 none (some 20) .normal = ⟨.outOfService, false, false, none⟩
    ∧ evalHeat cfgT 9 (some 59) (some 20) ⟨.alarm, false, true, none⟩ = .normal := by decide

/-- A node in RUN whose heat run reaches 3 s at the expiry: with no incident held, with a peer's, with its own. -/
def hot (h : Option Held) : State :=
  withInc { Inc.atReset with heat := ⟨.preAlarm, false, false, some (node.now - ms 3000)⟩, held := h } (heated 1724 none)

theorem test_latch_declares : (hot none).life = .run ∧ (hot none).inc.held = none ∧ (hot none).inc.heat.latched = false
    ∧ (hot none).inc.retiredOk ∧ heldT.severity < 3 ∧ heldT.id.station ≠ node.own ∧ 3 ≤ { heldT with severity := 3 }.severity
    ∧ (((hot none).sample.counted.consumeIn consumers).finish.inc.held.map fun h => (h.id, h.severity)) = some (⟨5, 1⟩, 3)
    ∧ (((hot (some { heldT with id := ⟨5, 9⟩ })).sample.counted.consumeIn consumers).finish.inc.held.map
      fun h => (h.id, h.severity)) = some (⟨5, 9⟩, 3) := by
  unfold Inc.retiredOk
  decide +kernel

theorem test_call_declares : after (.callPointEdge .cp1) node (fun t => t.inc.state == .declared && t.ord.vent == none
      && t.inc.held.map Held.triple == some ⟨.towardA, 0, 5⟩) = true := by decide +kernel

def anemo (level : Bool) (st : AnemoState) (riseAt fallAt : Option Nat) (watch : Nat) : State :=
  { node with fiu := { node.fiu with anemo := ⟨level, st, 30000, 20000, watch, riseAt, fallAt⟩ } }

def smokeCh (x : PeriodCh) : State := { node with fiu := { node.fiu with smoke := x, temp := x } }

theorem test_calibration_channels : (anemo true .ok none none 0).fiu.anemo.state = .ok
    ∧ (anemo true .ok none none 0).anemoSampleNow = some 300
    ∧ (smokeCh ⟨false, 2500, none, 0⟩).fiu.smoke.dead = false
    ∧ (smokeCh ⟨false, 2500, none, 0⟩).smokeNow = some 400
    ∧ (smokeCh ⟨false, 2500, none, 0⟩).fiu.temp.dead = false
    ∧ (smokeCh ⟨false, 2500, none, 0⟩).tempNow = some 160 := by decide +kernel

/-- Raw values at and beside a whole quotient; no sample of a stuck anemometer or a DEAD channel. -/
theorem test_raw_values : (anemo true .ok none none 0).fiu.anemo.raw = 39321
    ∧ (⟨false, 2500, none, 0⟩ : PeriodCh).raw = 400 ∧ (⟨false, 2501, none, 0⟩ : PeriodCh).raw = 399
    ∧ (anemo true .stuckHigh none none 0).fiu.anemo.state ≠ .ok
    ∧ (anemo true .stuckHigh none none 0).anemoSampleNow = none
    ∧ (smokeCh ⟨true, 2500, none, 0⟩).smokeNow = none ∧ (smokeCh ⟨true, 2500, none, 0⟩).tempNow = none := by
  decide +kernel

/-- Three and four valid samples of a window, the sum of either sign; fifteen and sixteen of a history, and one missing. -/
theorem test_windows : windowVelocity [some 1, none, some 2, some 3] = none
    ∧ windowVelocity [some 1, none, some 2, some 3, some 5] = some 2
    ∧ windowVelocity [some (-1), some (-2), some (-3), some (-5)] = some (-2)
    ∧ pushLast 3 [some 1, some 2] none = [some 1, some 2, none]
    ∧ pushLast 3 [some 1, none, some 3] (some 4) = [none, some 3, some 4]
    ∧ historyRise (List.replicate 14 (some 7) ++ [some 1]) = none
    ∧ historyRise (some 2 :: List.replicate 14 (some 7) ++ [some 9]) = some 7
    ∧ historyRise (some 2 :: List.replicate 13 (some 7) ++ [none, some 9]) = none := by decide

/-- A rising edge with a whole period behind it and one without, a falling edge, the watch at its last microsecond. -/
theorem test_anemometer_clauses : node.resetHeld = false ∧ (anemo true .ok (some 0) none 0).fiu.anemo.level = true
    ∧ (anemo false .ok (some 1) (some 2) 0).fiu.anemo.level = false
    ∧ (anemo false .ok (some 1) (some 2) 0).fiu.anemo.riseAt = some 1
    ∧ (anemo false .ok (some 1) (some 2) 0).fiu.anemo.fallAt = some 2
    ∧ (anemo false .stuckLow none none 0).fiu.anemo.riseAt = none
    ∧ (anemo true .ok none none (node.now - ms 100)).fiu.anemo.watchFrom + ms 100 ≤ node.now := by decide +kernel

theorem test_period_clauses : ((smokeCh ⟨true, 0, some 7, 0⟩).fiu.period .smoke).riseAt = some 7
    ∧ ((smokeCh ⟨true, 0, none, 0⟩).fiu.period .temperature).riseAt = none
    ∧ ((smokeCh ⟨false, 9, none, node.now - ms 1000⟩).fiu.period .smoke).watchFrom + ms 1000 ≤ node.now := by
  decide +kernel

def called (t : Option Nat) (s : State) : State := s.setCall .cp1 ⟨65535, t⟩

/-- In LOAD; 50 ms after an accepted edge, and 1 µs later. -/
theorem test_call_point_clauses : State.reset.life = .load
    ∧ ((called (some (node.now - ms 50)) node).fiu.call .cp1).acceptedAt = some (node.now - ms 50)
    ∧ node.now ≤ (node.now - ms 50) + ms 50 ∧ (node.now - ms 50 - 1) + ms 50 < node.now
    ∧ node.life ≠ .load ∧ { State.reset with life := .configInvalid }.life = .configInvalid
    ∧ ((called none node).fiu.call .cp1).acceptedAt = none := by decide +kernel

theorem test_call_event : node.active = true ∧ node.inc.call.state = .normal
    ∧ (node.fiu.call .cp1).acceptedAt = none ∧ node.life = .run ∧ node.inc.held = none
    ∧ listening.active = true ∧ listening.life = .listen ∧ listening.inc.held = none ∧ listening.inc.state = .quiet
    ∧ after (.callPointEdge .cp1) node (fun t => (t.inc.held.map fun h => (h.id, h.severity)) == some (⟨5, 1⟩, 2))
      = true
    ∧ after (.callPointEdge .cp2) listening (fun t => t.inc.state == .alert && t.inc.call == .latch) = true := by
  decide +kernel

def counting (c : Int) : State := node.modFanIn 0 fun x => { x with count := c }

/-- Edges of A and of B, both phases, neither; a fan not installed; the count at its end. -/
theorem test_tachometer : node.life ≠ .load ∧ node.installed 1 = true ∧ node.installed 2 = false
    ∧ after (.tachometerEdge 0 true false) node (fun t => (t.fanIn 0).count == 1) = true
    ∧ after (.tachometerEdge 0 false true) node (fun t => (t.fanIn 0).count == -1) = true
    ∧ after (.tachometerEdge 0 true true) node (fun t => (t.fanIn 0).count == 0) = true
    ∧ after (.tachometerEdge 0 true false) (counting 32767) (fun t => (t.fanIn 0).count == 32767) = true
    ∧ after (.tachometerEdge 2 true false) node (fun t => (t.fanIn 2).count == 0 && (t.fanIn 2).phaseA) = true := by
  decide +kernel

def invalid : State :=
  { loading ((storeOf 4 1).write 0x5C 2) with life := .configInvalid, now := ms 500 }

/-- The call-point counters of CONFIG_INVALID (R11, R18; log 37), and no bytes of them in RUN. -/
theorem test_call_counters_readable :
    let t := { invalid with fiu := { invalid.fiu with call1 := ⟨0x1234, none⟩, call2 := ⟨0xABCD, none⟩ } }
    [t.liveByte 0x33C5, t.liveByte 0x33C6, t.liveByte 0x33C7, t.liveByte 0x33C8] = [0x34, 0x12, 0xCD, 0xAB]
    ∧ { t with life := .run }.liveByte 0x33C5 = 0 := by decide +kernel

theorem test_window_timer : invalid.life = .configInvalid ∧ isDue invalid.now invalid.fiu.windowDue = true
    ∧ invalid.installed 1 = true ∧ invalid.installed 2 = false := by decide +kernel

def contact (d : Option Nat) (st : FanState) : State :=
  withFan 0 { Fan.atReset with state := st, target := .run .towardB 50 }
    (node.modFanIn 0 fun x => { x with faultLevel := true, differsFrom := d })

/-- Exactly 50 ms, in each of the states that fault. -/
theorem test_drive_fault : node.resetHeld = false ∧ node.installed 0 = true
    ∧ ((contact (some (node.now - ms 50)) .running).fanIn 0).differsFrom = some (node.now - ms 50)
    ∧ (node.now - ms 50) + ms 50 ≤ node.now ∧ (contact (some 0) .running).life = .run
    ∧ ((contact (some 0) .running).fanIn 0).faultLevel = true
    ∧ ((contact (some 0) .braking).fan 0).state = .braking ∧ ((contact (some 0) .startWait).fan 0).state = .startWait
    ∧ ((contact (some 0) .starting).fan 0).state = .starting ∧ ((contact (some 0) .running).fan 0).state = .running
    ∧ after (.driveFaultDebounceExpiry 0) (contact (some 0) .running) (fun t => (t.fan 0).state == .fault
      && (t.fan 0).lastFault == .drive && (t.fan 0).faultCount == 1) = true := by decide +kernel

/-- A contact that clears after exactly 50 ms, of a fan in FAULT with its hold over, with a hold; one that stays active. -/
def cleared (hold : Option Nat) : State :=
  withFan 0 { Fan.atReset with state := .fault, holdUntil := hold, faultCount := 2 }
    (node.modFanIn 0 fun x => { x with debounced := true, differsFrom := some (node.now - ms 50) })

theorem test_contact_clears : ((cleared none).fanIn 0).differsFrom = some (node.now - ms 50)
    ∧ ((cleared none).fanIn 0).faultLevel = false ∧ ((cleared none).fan 0).state = .fault
    ∧ ((cleared none).fan 0).holdUntil = none ∧ ((cleared (some 0)).fan 0).holdUntil ≠ none
    ∧ ((contact (some (node.now - ms 50)) .fault).fan 0).state = .fault
    ∧ after (.driveFaultDebounceExpiry 0) (cleared none) (fun t => (t.fan 0).state == .off && (t.fan 0).faultCount == 2)
      = true
    ∧ after (.driveFaultDebounceExpiry 0) (cleared (some 0)) (fun t => (t.fan 0).state == .fault) = true := by
  decide +kernel

theorem test_pwm_boundary : node.resetHeld = false
    ∧ ((node.modFanIn 0 fun x => { x with periodFrom := node.now - ms 10 }).fanIn 0).periodFrom + ms 10 ≤ node.now := by
  decide +kernel

def pulsing (duty i : Nat) : State := node.modFanIn 0 fun x => { x with duty, periodFrom := node.now - i }

/-- Duty 30 on both sides of 3000 µs; duties 0 and 100 at the ends of the period. -/
theorem test_pwm_level : (pulsing 30 2999).now = ((pulsing 30 2999).fanIn 0).periodFrom + 2999 ∧ 2999 < ms 10
    ∧ (pulsing 30 2999).pwmHigh 0 = true ∧ (pulsing 30 3000).pwmHigh 0 = false ∧ (pulsing 0 0).pwmHigh 0 = false
    ∧ (pulsing 100 9999).pwmHigh 0 = true ∧ (pulsing 100 9999).resetHeld = false
    ∧ (holding false true (pulsing 100 0)).pwmHigh 0 = false := by decide +kernel

/-! ## The lines -/

def lineIn (st : LineState) : Line := { Line.atReset 0 with state := st }

theorem test_quiet_watch_and_probe : (withLine .l1 (lineIn .up) node).active = true
    ∧ ((withLine .l1 { lineIn .up with quietFrom := node.now - ms 3000 } node).line .l1).state = .up
    ∧ ((withLine .l1 { lineIn .up with quietFrom := node.now - ms 3000 } node).line .l1).quietFrom + ms 3000 ≤ node.now
    ∧ ((withLine .l2 { lineIn .down with probeDue := some node.now } node).line .l2).state = .down
    ∧ isDue node.now ((withLine .l2 { lineIn .down with probeDue := some node.now } node).line .l2).probeDue = true := by
  decide +kernel

def copyT (attempts : Nat) (h : Option Header) : Copy := ⟨7, List.replicate 30 0, attempts, h⟩

def sending (st : LineState) (attempt : Option TxKind) (c : Copy) (drops : Nat) : State :=
  withLine .l1 { lineIn st with report := ⟨some c, none⟩, attempt, drops } node

/-- At the required gap and 1 µs short of it; a frame without and with its number. -/
theorem test_attempt_start : requiredGap 5 .report 0 = 1300 ∧ node.life = .run
    ∧ ((sending .up none (copyT 0 none) 0).line .l1).attempt = none
    ∧ ((sending .up none (copyT 0 none) 0).line .l1).candidate = some (.report, copyT 0 none)
    ∧ ((sending .up none (copyT 0 none) 0).line .l1).idleSince + 1300 ≤ node.now
    ∧ (copyT 0 none).header = none ∧ (copyT 1 (some ⟨3, 0, 0⟩)).header = some ⟨3, 0, 0⟩
    ∧ after (.attemptStart .l1 1300) (sending .up none (copyT 0 none) 0)
        (fun t => (t.line .l1).attempt == some .report && t.liu.seq == 1) = true
    ∧ after (.attemptStart .l1 1299) (sending .up none (copyT 0 none) 0) (fun t => (t.line .l1).attempt == none) = true
    ∧ listening.life ≠ .run ∧ (node.line .l1).candidate = none := by decide +kernel

/-- The classes in order, and each gap of section 37 without and with a retry. -/
theorem test_classes_and_gaps :
    let c := copyT 0 none
    { lineIn .up with report := ⟨some c, none⟩, incident := ⟨some c, none⟩, claim := ⟨some c, none⟩ }.candidate
      = some (.incident, c)
    ∧ { lineIn .up with report := ⟨some c, none⟩, claim := ⟨some c, none⟩ }.candidate = some (.claim, c)
    ∧ (lineIn .up).candidate = none
    ∧ requiredGap 37 .incident 0 = 400 ∧ requiredGap 37 .incident 1 = 700 ∧ requiredGap 37 .claim 2 = 1000
    ∧ requiredGap 37 .report 0 = 1300 ∧ requiredGap 37 .report 3 = 1800 := by decide +kernel

/-- What a report of 30 bytes of 0 is on the line, its check code low byte first. -/
theorem test_bytes_sent : (match exec (.attemptStart .l1 1300) (sending .up none (copyT 0 none) 0) with
    | .next t => t.sends .l1
    | _ => none) = some ([0x55, 0x55, 0xC7, 0x1A, 5, 0, 4] ++ List.replicate 30 0 ++ [0x0E, 0xF1])
    ∧ frameCheck .sectionReport 5 0 4 (List.replicate 30 0) = 0xF10E := by decide +kernel

theorem test_attempt_ends_apply :
    ((sending .up (some .report) (copyT 0 none) 0).line .l1).inAttempt = some (.report, copyT 0 none)
    ∧ ((sending .up (some .report) (copyT 14 none) 2).line .l1).inAttempt = some (.report, copyT 14 none)
    ∧ ((sending .up (some .report) (copyT 15 none) 2).line .l1).inAttempt = some (.report, copyT 15 none)
    ∧ ((sending .up (some .report) (copyT 15 none) 1).line .l1).inAttempt = some (.report, copyT 15 none)
    ∧ ((sending .down (some .report) (copyT 15 none) 3).line .l1).inAttempt = some (.report, copyT 15 none) := by
  decide +kernel

theorem test_drops_ok : ((sending .up (some .report) (copyT 15 none) 2).line .l1).dropsOk
    ∧ ((sending .up (some .report) (copyT 15 none) 1).line .l1).dropsOk
    ∧ ((sending .down (some .report) (copyT 15 none) 3).line .l1).dropsOk :=
  ⟨fun _ => by decide +kernel, fun _ => by decide +kernel, fun h => absurd rfl h⟩

/-- The 15th and the 16th collision, the third drop, an absent echo. -/
theorem test_attempts_end :
    after (.attemptCollision .l1) (sending .up (some .report) (copyT 14 none) 2)
      (fun t => (t.line .l1).report.cur.map Copy.attempts == some 15 && (t.line .l1).state == .up) = true
    ∧ after (.attemptCollision .l1) (sending .up (some .report) (copyT 15 none) 1)
      (fun t => (t.line .l1).drops == 2 && (t.line .l1).state == .up) = true
    ∧ after (.attemptCollision .l1) (sending .up (some .report) (copyT 15 none) 2)
      (fun t => (t.line .l1).state == .down && (t.line .l1).downs == 1) = true
    ∧ after (.attemptEchoAbsent .l1) (sending .quiet (some .report) (copyT 0 none) 0)
      (fun t => (t.line .l1).state == .down && (t.line .l1).probeDue == some (sec 105)) = true := by decide +kernel

/-- An attempt `age` µs old whose echo is absent, the line idle since 99 s before. -/
def idleAfterAbsent (age : Nat) : Option Nat :=
  match exec (.attemptEchoAbsent .l1) (withLine .l1
      { lineIn .up with report := ⟨some (copyT 0 none), none⟩, attempt := some .report, idleSince := sec 1
                        attemptFrom := node.now - age } node) with
  | .next t => some (t.line .l1).idleSince
  | _ => none

/-- In the first byte, at its end, in the second byte and at its end (R19). -/
theorem test_idle_after_absent_echo : idleAfterAbsent 39 = some (sec 1) ∧ idleAfterAbsent 40 = some node.now
    ∧ idleAfterAbsent 79 = some (node.now - 39) ∧ idleAfterAbsent 80 = some node.now := by decide +kernel

/-- Noise after four whole bytes, and after one byte that silence follows: an attempt then starts at its true idle time. -/
theorem test_noise : after (.lineNoise ⟨.l1, 0⟩) node
      (fun t => (t.line .l1).noise == 1 && (t.line .l1).idleSince == node.now && (t.line .l1).busy t.now) = true
    ∧ after (.lineNoise ⟨.l1, 120⟩) (sending .up none (copyT 0 none) 0)
      (fun t => (t.line .l1).idleSince == node.now - 120 && !(t.line .l1).busy t.now
        && after (.attemptStart .l1 1300) { t with now := t.now + 1180 }
          (fun u => (u.line .l1).attempt == some .report)) = true := by decide +kernel

def reporting : State := { node with liu := { node.liu with reportDue := some node.now } }
def declaring : State :=
  withInc { Inc.atReset with state := .declared, held := some { heldT with id := ⟨5, 1⟩ }, declarerDue := some node.now }
    node
def claiming (own : OwnClaim) (list : List QueueEntry) (s : State) : State :=
  { s with
    sq := { Sq.atReset with own, ownFan := some 0, ownNumber := 9, resendDue := some s.now, list }
    fch := { s.fch with claim := some 0 } }

theorem test_timers_due : reporting.life = .run ∧ isDue reporting.now reporting.liu.reportDue = true
    ∧ (reporting.line .l1).state ≠ .down ∧ isDue declaring.now declaring.inc.declarerDue = true
    ∧ declaring.inc.held = some { heldT with id := ⟨5, 1⟩ } ∧ (⟨5, 1⟩ : Identity).station = declaring.own
    ∧ isDue (claiming .wait [] node).now (claiming .wait [] node).sq.resendDue = true
    ∧ (claiming .wait [] node).sq.own ≠ .none ∧ (claiming .wait [] node).sq.ownFan = some 0 := by decide +kernel

/-- An event that changes the own node state: its end writes the own entry and hands the report over at once. -/
theorem test_reports_at_once : node.life = .run ∧ declaring.active = true
    ∧ (node.entry node.own).report.state = .quiet
    ∧ (declaring.finish.entry declaring.own).report.state = .declared
    ∧ (declaring.finish.entry declaring.own).report.healthy = 2
    ∧ declaring.finish.liu.reportDue = some (node.now + ms 500)
    ∧ (declaring.finish.line .l1).report.newest.map Copy.payload
      = some (encodeReport (declaring.finish.entry declaring.own).report) := by decide +kernel

def handed : Copy := ⟨node.liu.frames, [1], 0, none⟩

/-- A frame handed to a DOWN line, an empty slot, a waiting copy, a copy in an attempt, and beside another kind's attempt. -/
theorem test_placement :
    let after (s : State) (k : TxKind) : Slot := ((s.handOver k [1]).line .l1).slot k
    after (withLine .l1 (lineIn .down) node) .report = .empty ∧ after node .claim = ⟨some handed, none⟩
    ∧ after (sending .up none (copyT 3 none) 0) .report = ⟨some handed, none⟩
    ∧ after (sending .up (some .report) (copyT 3 none) 0) .report = ⟨some (copyT 3 none), some handed⟩
    ∧ after (sending .up (some .incident) (copyT 3 none) 0) .report = ⟨some handed, none⟩
    ∧ (listening.handOver .report [1]) = listening := by decide +kernel

/-! ## Reception -/

/-- A test of `Delivered`. -/
def deliveredBy (s : State) (c : Instr) (l : LineId) (k : FrameKind) (o : Nat) (q : BitVec 8) (p : List Byte) : Bool :=
  match bodyOf c with
  | some (l', k', h, p') =>
    s.active && l' == l && k' == k && p' == p && h.origin == o && h.seq == q
      && (bodyCheck s.own s.cfg.n k h p).isNone && judge s.now (s.originRec o) q == .accepted
  | none => false

theorem delivered_of_test {s : State} {c : Instr} {l : LineId} {k : FrameKind} {o : Nat} {q : BitVec 8}
    {p : List Byte} (h : deliveredBy s c l k o q p = true) : Delivered s c l k o q p := by
  unfold deliveredBy at h
  split at h
  · next l' k' x p' hb =>
    simp only [Bool.and_eq_true, beq_iff_eq, Option.isNone_iff_eq_none] at h
    obtain ⟨⟨⟨⟨⟨⟨⟨ha, rfl⟩, rfl⟩, rfl⟩, ho⟩, hq⟩, hc⟩, hj⟩ := h
    exact ⟨ha, x, hb, ho, hq, hc, hj⟩
  · exact absurd h Bool.false_ne_true

/-- A test of `Ordered`. -/
def orderedBy (s : State) (c : Instr) (l : LineId) (g : Nat) (q m : BitVec 8) (p : List Byte) (k : OrderKind) (o : Order) :
    Bool :=
  deliveredBy s c l .order g q p && orderKindOf (byteAt p 0) == some k && p.getD 1 0 == m
    && parseOrder s.cfg.n (p.drop 2) k == some o && (s.gateway g).executed != some m

theorem ordered_of_test {s : State} {c : Instr} {l : LineId} {g : Nat} {q m : BitVec 8} {p : List Byte} {k : OrderKind}
    {o : Order} (h : orderedBy s c l g q m p k o = true) : Ordered s c g m o := by
  simp only [orderedBy, Bool.and_eq_true, beq_iff_eq, bne_iff_ne] at h
  obtain ⟨⟨⟨⟨hd, hk⟩, hm⟩, ho⟩, hg⟩ := h
  exact ⟨l, q, p, k, delivered_of_test hd, hk, hm, ho, hg⟩

/-- A report of a peer of group 4 with two healthy fans, of the node's tag. -/
def reportT : Report :=
  { Report.unwritten with
    life := .run, velocity := some 250, installed := 2, healthy := 2, availB := 240, availA := 204, group := 4
    tag := 0x1234 }

def reportP : List Byte := encodeReport reportT

theorem test_report_round_trip : parseReport reportP = some reportT ∧ reportP.length = 30
    ∧ parseReport (encodeReport { reportT with healthy := 3 }) = none
    ∧ parseReport (encodeReport { reportT with group := 0 }) = none
    ∧ parseReport (encodeReport { reportT with thrust := -1284, velocity := some (-2000) })
      = some { reportT with thrust := -1284, velocity := some (-2000) }
    ∧ parseReport (encodeReport { reportT with thrust := -1285 }) = none := by decide +kernel

def reportWith (i : Nat) (v : Byte) : Option Report := parseReport (reportP.set i v)

/-- The ends of the fields that R39 bounds: velocity, detector codes, fan counts, availability, group, last order. -/
theorem test_report_bounds : (reportWith 0 (reportP.getD 0 0)).isSome = true ∧ reportWith 0 1 = none
    ∧ (parseReport (encodeReport { reportT with velocity := some 2000 })).isSome = true
    ∧ parseReport (encodeReport { reportT with velocity := some 2001 }) = none
    ∧ (parseReport (encodeReport { reportT with temperature := some (-40), smoke := some 20000 })).isSome = true
    ∧ parseReport (encodeReport { reportT with temperature := some (-41) }) = none
    ∧ parseReport (encodeReport { reportT with smoke := some 20001 }) = none
    ∧ (reportWith 9 2).isSome = true ∧ reportWith 9 0x20 = none ∧ reportWith 9 5 = none
    ∧ (reportWith 11 0x44).isSome = true ∧ reportWith 11 0x45 = none ∧ reportWith 12 3 = none
    ∧ (reportWith 14 5).isSome = false ∧ (reportWith 19 16).isSome = true ∧ reportWith 19 17 = none
    ∧ (parseReport (encodeReport { reportT with lastOrder := some (100, 3) })).isSome = true
    ∧ parseReport (encodeReport { reportT with lastOrder := some (101, 3) }) = none := by decide +kernel

/-- Length, check code, own origin, an origin outside the tunnel. -/
theorem test_body_checks :
    bodyOf (.startClaim .l1 ⟨7, 1, 0, [1], 0⟩) = some (.l1, .startClaim, ⟨7, 1, 0, 0⟩, [1])
    ∧ bodyCheck 5 12 .startClaim ⟨7, 1, 0, 0⟩ [1] = some .length
    ∧ bodyCheck 5 12 .startClaim ⟨7, 1, 0, 0⟩ [1, 1, 1, 0] = some .crc
    ∧ bodyCheck 5 12 .startClaim ⟨5, 1, 0, frameCheck .startClaim 5 1 0 [1, 1, 1, 0]⟩ [1, 1, 1, 0] = some .origin
    ∧ bodyCheck 5 12 .startClaim ⟨13, 1, 0, frameCheck .startClaim 13 1 0 [1, 1, 1, 0]⟩ [1, 1, 1, 0] = some .origin
    ∧ bodyCheck 5 12 .startClaim ⟨12, 1, 0, frameCheck .startClaim 12 1 0 [1, 1, 1, 0]⟩ [1, 1, 1, 0] = none
    ∧ State.reset.active = false ∧ splitBody [0x1A, 1, 2] = none := by
  refine ⟨rfl, ?_⟩
  decide +kernel

/-- The node with section 7's record: number 5 accepted at time t. -/
def knows (t : Nat) : State := node.modEntry 7 fun e => { e with origin := some ⟨5, t⟩ }

/-- A duplicate and a stale frame at 2000 ms; at 2001 ms it is accepted. -/
theorem test_duplicates : node.active = true
    ∧ bodyCheck 5 12 .sectionReport (frameHeader (bodyWith .sectionReport 7 5 reportP)) reportP = none
    ∧ judge node.now ((knows (node.now - ms 2000)).originRec 7) 5 = .duplicate
    ∧ judge node.now ((knows (node.now - ms 2000)).originRec 7) 4 = .stale
    ∧ judge node.now ((knows (node.now - ms 2001)).originRec 7) 5 = .accepted
    ∧ judge node.now ((knows (node.now - ms 2000)).originRec 7) 6 = .accepted := by decide +kernel

/-- Number 127 ahead is newer, 128 ahead is stale. -/
theorem test_judge : judge (ms 1) (some ⟨250, 0⟩) 121 = .accepted ∧ judge (ms 1) (some ⟨250, 0⟩) 122 = .stale
    ∧ judge (ms 1) none 122 = .accepted := by decide

def hearing (st : LineState) (probeOk : Bool) : State :=
  withLine .l1 { lineIn st with drops := 2, probeOk, probeDue := some 9 } (knows (node.now - ms 2000))

/-- A valid frame, a duplicate here, on a line in each state. -/
theorem test_valid_frames :
    bodyOf (.sectionReport .l1 (bodyWith .sectionReport 7 5 reportP))
      = some (.l1, .sectionReport, frameHeader (bodyWith .sectionReport 7 5 reportP), reportP)
    ∧ (let hears (s : State) (p : Line → Bool) : Bool :=
        after (.sectionReport .l1 (bodyWith .sectionReport 7 5 reportP)) s fun t =>
          p (t.line .l1) && (t.line .l1).quietFrom == node.now && (t.line .l1).accepted == 0
      hears (hearing .up false) (fun x => x.state == .up && x.drops == 2)
      && hears (hearing .quiet false) (fun x => x.state == .up && x.drops == 0 && x.probeDue == none)
      && hears (hearing .down true) (fun x => x.state == .up && x.drops == 0 && x.probeDue == none)
      && hears (hearing .down false) (fun x => x.state == .down && x.drops == 2 && x.probeDue == some 9)) = true := by
  decide +kernel

/-- A frame that leaves its line newly UP, heard with a claim open: a frame of the claim at once. -/
theorem test_newly_up_re_sends :
    let hears (st : LineState) (ok : Bool) (p : Option (List Byte)) : Bool :=
      after (.sectionReport .l1 (bodyWith .sectionReport 7 5 reportP)) (claiming .wait [] (hearing st ok)) fun t =>
        (t.line .l1).claim.newest.map Copy.payload == p && (t.sq.resendDue == some (node.now + sec 5)) == p.isSome
    bodyCheck 5 12 .sectionReport (frameHeader (bodyWith .sectionReport 7 5 reportP)) reportP = none
    ∧ (claiming .wait [] (hearing .quiet false)).sq.own ≠ .none
    ∧ (hears .quiet false (some [4, 1, 9, 0]) && hears .down true (some [4, 1, 9, 0]) && hears .down false none
      && hears .up false none) = true := by decide +kernel

theorem test_placed : node.Placed := by
  unfold State.Placed
  decide +kernel

theorem test_report_delivered :
    Delivered node (.sectionReport .l1 (bodyWith .sectionReport 7 1 reportP)) .l1 .sectionReport 7 1 reportP :=
  delivered_of_test (by decide +kernel)

def reportBad : List Byte := encodeReport { reportT with group := 0 }

theorem test_bad_report_delivered :
    Delivered node (.sectionReport .l2 (bodyWith .sectionReport 7 1 reportBad)) .l2 .sectionReport 7 1 reportBad
      ∧ parseReport reportBad = none := ⟨delivered_of_test (by decide +kernel), by decide +kernel⟩

theorem test_report_written : after (.sectionReport .l1 (bodyWith .sectionReport 7 1 reportP)) node (fun t =>
    (t.entry 7).state == .fresh && (t.entry 7).report == reportT && (t.line .l1).state == .up
      && (t.entry 7).tagMatch) = true := by decide +kernel

/-- A fresh entry at 2501 ms and a stale one at 6001 ms. -/
theorem test_entry_ages : node.active = true ∧ isSection node.cfg.n 12 = true ∧ 12 ≠ node.own
    ∧ (((knows 0).modEntry 12 fun e => { e with state := .fresh, writtenAt := node.now - ms 2501 }).entry 12).state = .fresh
    ∧ (node.now - ms 2501) + ms 2501 ≤ node.now
    ∧ after (.entryAgeExpiry 12) (node.modEntry 12 fun e => { e with state := .stale, writtenAt := node.now - ms 6001 })
      (fun t => (t.entry 12).state == .lost) = true := by decide +kernel

/-! ## The incident -/

def incidentP (h : Held) (declarer : Bool) : List Byte := encodeIncident h declarer false none .declared

def msgOf (h : Held) (declarer : Bool) : IncidentMsg := ⟨h.id, h.severity, h.triple, h.locus, declarer, false, none⟩

/-- An INCIDENT frame of section 8 for a record. -/
def incidentC (h : Held) : Instr := .incident .l1 (bodyWith .incident 8 2 (incidentP h (h.id.station == 8)))

def incidentBad : List Byte := incidentP { heldT with severity := 5 } true

theorem test_incident_delivered : Delivered node (incidentC heldT) .l1 .incident 8 2 (incidentP heldT true)
    ∧ parseIncident 12 8 (incidentP heldT true) = some (msgOf heldT true) ∧ (msgOf heldT true).id ∉ node.inc.retired
    ∧ node.inc.held = none
    ∧ Delivered node (.incident .l1 (bodyWith .incident 8 2 incidentBad)) .l1 .incident 8 2 incidentBad
    ∧ parseIncident 12 8 incidentBad = none :=
  ⟨delivered_of_test (by decide +kernel), by decide +kernel, by decide +kernel, rfl,
    delivered_of_test (by decide +kernel), by decide +kernel⟩

/-- The ends of the fields that R71 bounds, and the role marks, of a frame of section 8. -/
theorem test_incident_bounds :
    let reads (o i : Nat) (v : Byte) : Bool := (parseIncident 12 o ((incidentP heldT true).set i v)).isSome
    (reads 8 0 8 && !reads 8 0 0 && !reads 8 0 13 && !reads 8 0 97 && !reads 8 2 0 && reads 8 2 3 && !reads 8 2 4
      && !reads 8 3 2 && reads 8 5 100 && !reads 8 5 101 && reads 8 6 12 && !reads 8 6 13 && !reads 8 6 0 && reads 8 7 0
      && reads 8 7 6 && !reads 8 7 2 && !reads 8 7 4 && !reads 9 7 1 && !reads 97 7 6 && reads 97 7 0) = true
    ∧ (parseIncident 12 97 (incidentP { heldT with id := ⟨97, 1⟩, severity := 4 } true)).isSome = true
    ∧ parseIncident 12 97 (incidentP { heldT with id := ⟨97, 1⟩, severity := 3 } true) = none := by decide +kernel

/-- Ranks: the severity, then the lower station, then the newer number. -/
theorem test_outranks : outranks 2 ⟨9, 0⟩ 1 ⟨8, 23⟩ = true ∧ outranks 1 ⟨7, 0⟩ 1 ⟨8, 23⟩ = true
    ∧ outranks 1 ⟨8, 24⟩ 1 ⟨8, 23⟩ = true ∧ outranks 1 ⟨8, 151⟩ 1 ⟨8, 23⟩ = false
    ∧ outranks 1 ⟨8, 23⟩ 1 ⟨8, 151⟩ = false ∧ (⟨8, 151⟩ : Identity) ≠ ⟨8, 23⟩ := by decide

theorem test_wins : wins ⟨.towardA, 8, 9⟩ heldT.newest = true ∧ wins ⟨.towardA, 7, 7⟩ heldT.newest = true
    ∧ wins ⟨.towardA, 7, 8⟩ heldT.newest = false ∧ wins ⟨.towardB, 7, 8⟩ ⟨.towardA, 7, 8⟩ = true
    ∧ wins ⟨.towardB, 7, 8⟩ heldT.newest = false ∧ declaredNode.inc.held = some heldT := by decide +kernel

/-- The identity retired; a record that does not outrank the held one; one that does. -/
theorem test_incident_clauses :
    Delivered (withInc { Inc.atReset with retired := [idT] } node) (incidentC heldT) .l1 .incident 8 2
      (incidentP heldT true)
    ∧ idT ∈ (withInc { Inc.atReset with retired := [idT] } node).inc.retired
    ∧ Delivered declaredNode (incidentC { heldT with id := ⟨9, 0⟩ }) .l1 .incident 8 2
      (incidentP { heldT with id := ⟨9, 0⟩ } false)
    ∧ outranks 1 ⟨9, 0⟩ heldT.severity heldT.id = false
    ∧ Delivered declaredNode (incidentC { heldT with id := ⟨7, 0⟩ }) .l1 .incident 8 2
      (incidentP { heldT with id := ⟨7, 0⟩ } false)
    ∧ outranks 1 ⟨7, 0⟩ heldT.severity heldT.id = true ∧ heldT.id ≠ ⟨7, 0⟩ :=
  ⟨delivered_of_test (by decide +kernel), by decide +kernel, delivered_of_test (by decide +kernel), by decide,
    delivered_of_test (by decide +kernel), by decide, by decide⟩

theorem test_incident_adopted : after (incidentC heldT) node (fun t => t.inc.held == some heldT
    && t.inc.state == .declared && t.inc.lead == false) = true := by decide +kernel

def turned (d : Direction) (v : BitVec 8) : Held := { heldT with triple := ⟨d, v, 8⟩ }

def guarded (u : Option PendingTriple) : State :=
  withInc { Inc.atReset with state := .declared, held := some { heldT with pending := u }, guardUntil := some node.now } node

theorem test_incident_merges :
    Delivered declaredNode (incidentC heldT) .l1 .incident 8 2 (incidentP heldT true)
    ∧ wins heldT.triple heldT.newest = false
    ∧ Delivered declaredNode (incidentC (turned .towardB 8)) .l1 .incident 8 2 (incidentP (turned .towardB 8) true)
    ∧ wins ⟨.towardB, 8, 8⟩ heldT.newest = true
    ∧ Delivered declaredNode (incidentC (turned .towardA 8)) .l1 .incident 8 2 (incidentP (turned .towardA 8) true)
    ∧ wins ⟨.towardA, 8, 8⟩ heldT.newest = true ∧ declaredNode.inc.guardUntil = none
    ∧ Delivered (guarded none) (incidentC (turned .towardA 8)) .l1 .incident 8 2 (incidentP (turned .towardA 8) true)
    ∧ (guarded none).inc.guardUntil ≠ none ∧ (guarded none).inc.held = some heldT :=
  ⟨delivered_of_test (by decide +kernel), by decide, delivered_of_test (by decide +kernel), by decide,
    delivered_of_test (by decide +kernel), by decide, rfl, delivered_of_test (by decide +kernel), by decide, rfl⟩

def leadFrame (o : Nat) : List Byte :=
  encodeIncident { heldT with demand := some ⟨200, some ⟨o, 0, 4⟩, none⟩ } false true none .controlled

/-- A record adopted with a lead's demand, by a node that does not lead: accepted from upstream, refused from the span. -/
theorem test_demand_at_adoption :
    let adopts (o : Nat) (p : State → Bool) : Bool :=
      deliveredBy node (.incident .l1 (bodyWith .incident o 2 (leadFrame o))) .l1 .incident o 2 (leadFrame o)
        && after (.incident .l1 (bodyWith .incident o 2 (leadFrame o))) node p
    (adopts 4 (fun t => t.inc.held == some { heldT with demand := some ⟨200, some ⟨4, node.now, 4⟩, none⟩ }
        && t.inc.state == .controlled && t.inc.refused == 0)
      && adopts 9 (fun t => t.inc.held == some heldT && t.inc.state == .declared && t.inc.refused == 1)) = true := by
  decide +kernel

/-- A lead's demand from section 4, upstream, is accepted; from section 9, in the span, it is counted as refused. -/
theorem test_demand_judged :
    after (.incident .l1 (bodyWith .incident 4 2 (leadFrame 4))) declaredNode (fun t => t.inc.state == .controlled
      && (t.inc.held.map fun h => h.demand.map Demand.t) == some (some 200)) = true
    ∧ after (.incident .l1 (bodyWith .incident 9 2 (leadFrame 9))) declaredNode (fun t => t.inc.refused == 1
      && (t.inc.held.map fun h => h.demand) == some none) = true := by decide +kernel

/-- A demand with a triple that wins: of the same direction, accepted; of another one that waits for the guard, refused. -/
theorem test_demand_of_a_winning_triple :
    let lead (d : Direction) (o : Nat) : Instr := .incident .l1 (bodyWith .incident o 2 (encodeIncident
      { turned d 8 with demand := some ⟨200, some ⟨o, 0, 4⟩, none⟩ } (o == 8) true none .controlled))
    wins ⟨.towardA, 8, 8⟩ heldT.newest = true ∧ (declaredNode.merge heldT ⟨idT, 1, ⟨.towardB, 8, 8⟩, 8, false, true,
        some (200, 4)⟩).inc.lead = false
    ∧ after (lead .towardB 4) declaredNode (fun t => t.inc.state == .controlled
      && (t.inc.held.map fun h => h.demand.map Demand.t) == some (some 200)) = true
    ∧ after (lead .towardA 11) declaredNode (fun t => t.inc.state == .controlled
      && (t.inc.held.map fun h => h.demand.map Demand.t) == some (some 200)) = true
    ∧ after (lead .towardA 11) (guarded none) (fun t => t.inc.refused == 1
      && (t.inc.held.map fun h => h.demand) == some none) = true := by decide +kernel

/-- A source of section 6, nearer than section 4, is old after 6001 ms. -/
theorem test_sources_age :
    let m : IncidentMsg := ⟨idT, 1, heldT.triple, 8, false, true, some (200, 4)⟩
    let h (t : Nat) : Held := { heldT with demand := some ⟨100, some ⟨6, t, 4⟩, none⟩ }
    node.demandOk (h (node.now - ms 6001)) 4 m = true ∧ node.demandOk (h (node.now - ms 6001 + 1)) 4 m = false
    ∧ node.demandOk (h node.now) 6 m = true ∧ node.demandOk (h node.now) 9 m = false := by decide +kernel

def alerted : State := withInc { Inc.atReset with state := .alert, alertClear := some node.now } node
def venting : State := { node with ord := { Ord.atReset with vent := some ⟨97, 1, 4, 6, .towardB, 50, node.now⟩ } }
def entryT : QueueEntry := ⟨3, 1, 9, false, node.now - ms 12000⟩

theorem test_expiries : alerted.active = true ∧ isDue alerted.now alerted.inc.alertClear = true
    ∧ venting.ord.vent = some ⟨97, 1, 4, 6, .towardB, 50, node.now⟩ ∧ venting.active = true
    ∧ (claiming .wait [entryT] node).active = true ∧ 3 ≠ node.own
    ∧ entryT ∈ (claiming .wait [entryT] node).sq.list ∧ entryT.station = 3 ∧ entryT.heardAt + ms 12000 ≤ node.now := by
  decide +kernel

theorem test_guard_expiry : (guarded (some ⟨⟨.towardA, 8, 8⟩, 0⟩)).active = true
    ∧ isDue (guarded none).now (guarded none).inc.guardUntil = true
    ∧ (guarded (some ⟨⟨.towardA, 8, 8⟩, 0⟩)).inc.held = some { heldT with pending := some ⟨⟨.towardA, 8, 8⟩, 0⟩ }
    ∧ (guarded none).inc.held = some heldT ∧ heldT.pending = none
    ∧ after .guardTimerExpiry (guarded (some ⟨⟨.towardA, 8, 8⟩, 0⟩)) (fun t => (t.inc.held.map Held.triple)
      == some ⟨.towardA, 8, 8⟩ && t.inc.guardUntil == some (node.now + sec 60)) = true := by decide +kernel

def demandT : Demand := ⟨100, some ⟨5, 0, 4⟩, none⟩

/-- The lead of an incident at section 8, with its own velocity or without. -/
def leading (v : Option Int) : State :=
  withInc { Inc.atReset with
    state := .controlled, held := some { heldT with demand := some demandT }, lead := true
    controlDue := some node.now, sourceUntil := some node.now }
    (node.modEntry 5 fun e => { e with state := .fresh, tagMatch := true, report := { reportT with velocity := v } })

theorem test_control_interval : (leading (some 250)).life = .run ∧ (leading (some 250)).inc.lead = true
    ∧ isDue node.now (leading (some 250)).inc.controlDue = true
    ∧ (leading (some 250)).inc.held = some { heldT with demand := some demandT }
    ∧ (leading (some 250)).refreshOwn.controlVelocity { heldT with demand := some demandT } = some 250
    ∧ (leading none).refreshOwn.controlVelocity { heldT with demand := some demandT } = none
    ∧ after .controlIntervalExpiry (leading none) (fun t => (t.inc.held.bind fun h => h.demand)
      == some ⟨100, some ⟨5, node.now, 4⟩, none⟩) = true := by decide +kernel

/-- Toward A the velocity is signed. -/
theorem test_control_velocity : heldT.upstream cfgT = [6] ++ 5 :: [4, 3, 2, 1] ∧ (5 : Nat) ∉ [6]
    ∧ ({ turned .towardA 7 with locus := 2 } : Held).upstream cfgT = [4] ++ 5 :: [6, 7, 8, 9, 10, 11, 12]
    ∧ (leading (some 250)).refreshOwn.controlVelocity { turned .towardA 7 with locus := 2 } = some (-250) := by
  decide +kernel

/-- The lead's condition holds, and a node with no velocity for which it does not. -/
theorem test_source_expiry : (leading (some 250)).active = true
    ∧ isDue node.now (leading (some 250)).inc.sourceUntil = true
    ∧ (leading (some 250)).refreshOwn.leadHolds = true ∧ (leading none).refreshOwn.leadHolds = false
    ∧ (withInc { (leading (some 250)).inc with lead := false } (leading (some 250))).inc.lead = false
    ∧ (leading (some 250)).inc.lead = true ∧ (leading none).inc.state = .controlled
    ∧ after .sourceTimerExpiry (leading none) (fun t => t.inc.state == .holding && t.inc.lead == false) = true := by
  decide +kernel

/-- A node with its own velocity that hears of the incident from the lead in section 6: it becomes lead and says so in its
frame, then accepts the nearer node's demand and ceases to be lead. -/
theorem test_lead_sends_at_once :
    (withInc { (leading (some 250)).inc with lead := false } (leading (some 250))).refreshOwn.leadHolds = true
    ∧ after (.incident .l1 (bodyWith .incident 6 2 (leadFrame 6))) (withInc Inc.atReset (leading (some 250))) (fun t =>
      t.inc.lead == false && (t.inc.held.bind fun h => h.demand.map Demand.t) == some 200
        && (t.line .l1).incident.newest.map (fun c => c.payload.getD 7 0 &&& 3) == some 2) = true := by decide +kernel

/-- A record adopted by a node that leads at once: no demand in the frame, one from a section nearer the incident, one
from a section farther off. -/
theorem test_demand_at_adoption_by_the_lead :
    let s : State := withInc Inc.atReset (leading (some 250))
    let adopts (o : Nat) (b : List Byte) (p : State → Bool) : Bool :=
      deliveredBy s (.incident .l1 (bodyWith .incident o 2 b)) .l1 .incident o 2 b
        && after (.incident .l1 (bodyWith .incident o 2 b)) s p
    let led (t : State) : Bool := t.inc.lead && t.inc.state == .controlled && t.inc.controlDue == some (s.now + ms 2000)
      && (t.inc.held.map fun h => h.demand.map Demand.source) == some (some (some ⟨5, s.now, 0⟩))
    (adopts 8 (incidentP heldT true) (fun t => led t && t.inc.refused == 0)
      && adopts 6 (leadFrame 6) (fun t => !t.inc.lead && t.inc.controlDue == none && t.inc.refused == 0
        && t.inc.held == some { heldT with demand := some ⟨200, some ⟨6, s.now, 4⟩, none⟩ })
      && adopts 4 (leadFrame 4) (fun t => led t && t.inc.refused == 1)) = true := by decide +kernel

theorem test_span_clauses : 1 ≤ heldT.locus ∧ heldT.locus ≤ cfgT.n ∧ heldT.triple.dir = .towardB
    ∧ (turned .towardA 8).triple.dir = .towardA ∧ heldT.rank cfgT = [1, 2, 3, 4, 5, 6, 12, 11]
    ∧ (turned .towardA 8).rank cfgT = [12, 11, 10, 1, 2, 3, 4, 5] := by decide

/-- The incident's node with the own entry FRESH at an availability, and a demand. -/
def planning (avail t : Nat) : State :=
  withInc { Inc.atReset with state := .controlled, held := some { heldT with demand := some ⟨t, none, none⟩ } }
    (node.modEntry 5 fun e =>
      { e with
        state := .fresh, tagMatch := true
        report := { ownReportT with availB := avail, summary := some heldT.summary } })

def planT (avail t : Nat) : Plan := (planning avail t).planOf { heldT with demand := some ⟨t, none, none⟩ }

/-- No demand, one below the start threshold, the threshold, one fan's thrust, more, more than two fans have. -/
theorem test_fan_plan_clauses : node.cfg.sMin ≤ 100 ∧ (planT 240 0).share = 0
    ∧ ((planning 240 4).preference .towardB).map (fun f => (planning 240 4).derated f .towardB) = [120, 120]
    ∧ ((planT 240 4).share, (planT 240 4).k) = (4, 0) ∧ ((planT 240 5).share, (planT 240 5).k) = (5, 1)
    ∧ (planT 240 5).speed = some 30 ∧ ((planT 240 120).k, (planT 240 120).speed) = (1, some 100)
    ∧ ((planT 240 121).k, (planT 240 121).speed) = (2, some 72)
    ∧ ((planT 300 300).k, (planT 300 300).speed) = (2, some 100) := by decide +kernel

/-! ## Orders -/

def declareC (number : Byte) : Instr := .declare .l1 (orderWith 1 97 number [6, 2, 0, 0, 0, 0, 0])

/-- With no incident, over a record of lower rank, with the identity held, and with the identity retired. -/
theorem test_declare : Ordered node (declareC 9) 97 9 (.declare 6 none) ∧ node.inc.held = none
    ∧ (⟨97, 9⟩ : Identity) ∉ node.inc.retired ∧ Ordered declaredNode (declareC 9) 97 9 (.declare 6 none)
    ∧ declaredNode.inc.held = some heldT ∧ heldT.id ≠ ⟨97, 9⟩ ∧ outranks 4 ⟨97, 9⟩ heldT.severity heldT.id = true
    ∧ Ordered (withInc { Inc.atReset with retired := [⟨97, 9⟩] } node) (declareC 9) 97 9 (.declare 6 none)
    ∧ (⟨97, 9⟩ : Identity) ∈ (withInc { Inc.atReset with retired := [⟨97, 9⟩] } node).inc.retired :=
  ⟨ordered_of_test (l := .l1) (q := 1) (k := .declare) (p := [1, 9, 6, 2, 0, 0, 0, 0, 0]) (by decide +kernel), rfl,
    by decide +kernel,
    ordered_of_test (l := .l1) (q := 1) (k := .declare) (p := [1, 9, 6, 2, 0, 0, 0, 0, 0]) (by decide +kernel), rfl,
    by decide, by decide,
    ordered_of_test (l := .l1) (q := 1) (k := .declare) (p := [1, 9, 6, 2, 0, 0, 0, 0, 0]) (by decide +kernel),
    by decide +kernel⟩

theorem test_declare_runs : after (declareC 9) node (fun t => (t.inc.held.map fun h => (h.id, h.severity, h.locus, h.triple))
    == some (⟨97, 9⟩, 4, 6, ⟨.towardA, 0, 5⟩) && t.ord.lastOrder == some (97, 9)) = true := by decide +kernel

/-- A node upstream of the locus leads at once; a node downstream does not. -/
theorem test_declare_enters :
    after (declareC 9) (withInc Inc.atReset (leading (some 250))) (fun t => t.inc.state == .declared) = true
    ∧ after (.declare .l1 (orderWith 1 97 9 [8, 0, 0, 0, 0, 0, 0])) (withInc Inc.atReset (leading (some 250)))
      (fun t => t.inc.state == .declared || t.inc.state == .controlled && t.inc.lead) = true := by decide +kernel

def forceC (d : Byte) : Instr := .forceDirection .l1 (orderWith 2 98 3 [8, 23, d, 0, 0, 0, 0])

/-- Without the identity; to the newest direction; to the other one, with the guard idle and running. -/
theorem test_force_direction : Ordered node (forceC 1) 98 3 (.forceDirection idT .towardA) ∧ node.inc.held = none
    ∧ Ordered declaredNode (forceC 0) 98 3 (.forceDirection idT .towardB) ∧ heldT.id = idT
    ∧ Direction.towardB = heldT.newest.dir ∧ Ordered declaredNode (forceC 1) 98 3 (.forceDirection idT .towardA)
    ∧ declaredNode.inc.guardUntil = none ∧ Ordered (guarded none) (forceC 1) 98 3 (.forceDirection idT .towardA)
    ∧ (guarded none).inc.guardUntil ≠ none
    ∧ Ordered (guarded (some ⟨⟨.towardA, 8, 8⟩, 0⟩)) (forceC 0) 98 3 (.forceDirection idT .towardB) :=
  ⟨ordered_of_test (l := .l1) (q := 1) (k := .forceDirection) (p := [2, 3, 8, 23, 1, 0, 0, 0, 0]) (by decide +kernel), rfl,
    ordered_of_test (l := .l1) (q := 1) (k := .forceDirection) (p := [2, 3, 8, 23, 0, 0, 0, 0, 0]) (by decide +kernel), rfl,
    rfl, ordered_of_test (l := .l1) (q := 1) (k := .forceDirection) (p := [2, 3, 8, 23, 1, 0, 0, 0, 0]) (by decide +kernel),
    rfl, ordered_of_test (l := .l1) (q := 1) (k := .forceDirection) (p := [2, 3, 8, 23, 1, 0, 0, 0, 0]) (by decide +kernel),
    by decide,
    ordered_of_test (l := .l1) (q := 1) (k := .forceDirection) (p := [2, 3, 8, 23, 0, 0, 0, 0, 0]) (by decide +kernel)⟩

def standC : Instr := .standDown .l2 (orderWith 3 99 1 [8, 23, 0, 0, 0, 0, 0])

theorem test_stand_down : Ordered declaredNode standC 99 1 (.standDown idT) ∧ declaredNode.inc.held = some heldT
    ∧ heldT.id = idT ∧ declaredNode.ord.vent = none ∧ Ordered node standC 99 1 (.standDown idT)
    ∧ after standC declaredNode (fun t => t.inc.held == none && t.inc.retired == [idT] && t.inc.state == .quiet) = true :=
  ⟨ordered_of_test (l := .l2) (q := 1) (k := .standDown) (p := [3, 1, 8, 23, 0, 0, 0, 0, 0]) (by decide +kernel), rfl, rfl,
    rfl, ordered_of_test (l := .l2) (q := 1) (k := .standDown) (p := [3, 1, 8, 23, 0, 0, 0, 0, 0]) (by decide +kernel),
    by decide +kernel⟩

/-- The ninth identity drops the oldest. -/
theorem test_full_retired_list :
    let full : List Identity := [⟨1, 1⟩, ⟨2, 1⟩, ⟨3, 1⟩, ⟨4, 1⟩, ⟨6, 1⟩, ⟨7, 1⟩, ⟨9, 1⟩, ⟨10, 1⟩]
    full.length = 8 ∧ after standC (withInc { Inc.atReset with retired := full } node)
      (fun t => t.inc.retired == full.drop 1 ++ [idT]) = true
    ∧ after standC (withInc { Inc.atReset with retired := full.drop 1 } node)
      (fun t => t.inc.retired == full.drop 1 ++ [idT]) = true := by decide +kernel

def inhibitC (first last : Byte) : Instr := .inhibit .l1 (orderWith 4 97 2 [first, last, 0, 0, 0, 0, 0])
def releaseC (first last : Byte) : Instr := .release .l1 (orderWith 5 97 3 [first, last, 0, 0, 0, 0, 0])
def inhibited : State := { node with ord := { Ord.atReset with inhibit := true } }

/-- The range's two ends, and a range that ends below the section. -/
theorem test_inhibit_release : Ordered node (inhibitC 5 5) 97 2 (.inhibit 5 5)
    ∧ Ordered node (inhibitC 1 4) 97 2 (.inhibit 1 4) ∧ Ordered inhibited (releaseC 1 12) 97 3 (.release 1 12)
    ∧ node.ord.inhibit ≠ true ∧ inhibited.ord.inhibit ≠ false
    ∧ after (inhibitC 5 5) node (fun t => t.ord.inhibit && t.cst.engine.map Job.work == some (.item .ownInhibit 1)) = true
    ∧ after (inhibitC 6 12) node (fun t => !t.ord.inhibit) = true :=
  ⟨ordered_of_test (l := .l1) (q := 1) (k := .inhibit) (p := [4, 2, 5, 5, 0, 0, 0, 0, 0]) (by decide +kernel),
    ordered_of_test (l := .l1) (q := 1) (k := .inhibit) (p := [4, 2, 1, 4, 0, 0, 0, 0, 0]) (by decide +kernel),
    ordered_of_test (l := .l1) (q := 1) (k := .release) (p := [5, 3, 1, 12, 0, 0, 0, 0, 0]) (by decide +kernel),
    by decide, by decide, by decide +kernel, by decide +kernel⟩

def ventC (first last : Byte) : Instr := .ventRun .l1 (orderWith 6 97 4 [first, last, 0, 50, 60, 0, 0])
def stopC (first last : Byte) : Instr := .ventStop .l1 (orderWith 7 97 5 [first, last, 0, 0, 0, 0, 0])

theorem test_vent_orders : Ordered node (ventC 5 6) 97 4 (.ventRun 5 6 .towardB 50 60)
    ∧ Ordered declaredNode (ventC 5 5) 97 4 (.ventRun 5 5 .towardB 50 60) ∧ declaredNode.inc.held ≠ none
    ∧ Ordered node (ventC 6 6) 97 4 (.ventRun 6 6 .towardB 50 60) ∧ Ordered venting (stopC 1 5) 97 5 (.ventStop 1 5)
    ∧ after (ventC 5 6) node (fun t => (t.ord.vent.map Vent.ends) == some (sec 160)
      && (t.fan 0).state == .startWait && t.fch.claim == some 0) = true :=
  ⟨ordered_of_test (l := .l1) (q := 1) (k := .ventRun) (p := [6, 4, 5, 6, 0, 50, 60, 0, 0]) (by decide +kernel),
    ordered_of_test (l := .l1) (q := 1) (k := .ventRun) (p := [6, 4, 5, 5, 0, 50, 60, 0, 0]) (by decide +kernel), by decide,
    ordered_of_test (l := .l1) (q := 1) (k := .ventRun) (p := [6, 4, 6, 6, 0, 50, 60, 0, 0]) (by decide +kernel),
    ordered_of_test (l := .l1) (q := 1) (k := .ventStop) (p := [7, 5, 1, 5, 0, 0, 0, 0, 0]) (by decide +kernel),
    by decide +kernel⟩

def undefinedC : Instr := .undefinedOrderKind .l1 8 (orderWith 8 97 4 [0, 0, 0, 0, 0, 0, 0])
def executedNode : State := node.modGateway 97 fun x => { x with executed := some 4 }

/-- An undefined kind, content that fails (a speed of 19), and a number executed before. -/
theorem test_refused_and_repeated :
    Delivered node undefinedC .l1 .order 97 1 [8, 4, 0, 0, 0, 0, 0, 0, 0]
    ∧ orderKindOf (byteAt [8, 4, 0, 0, 0, 0, 0, 0, 0] 0) = none
    ∧ Delivered node (.ventRun .l1 (orderWith 6 97 4 [5, 5, 0, 19, 60, 0, 0])) .l1 .order 97 1 [6, 4, 5, 5, 0, 19, 60, 0, 0]
    ∧ parseOrder 12 [5, 5, 0, 19, 60, 0, 0] .ventRun = none
    ∧ Delivered executedNode (ventC 5 6) .l1 .order 97 1 [6, 4, 5, 6, 0, 50, 60, 0, 0]
    ∧ orderKindOf (byteAt [6, 4, 5, 6, 0, 50, 60, 0, 0] 0) = some .ventRun
    ∧ parseOrder 12 [5, 6, 0, 50, 60, 0, 0] .ventRun = some (.ventRun 5 6 .towardB 50 60)
    ∧ (executedNode.gateway 97).executed = some 4 :=
  ⟨delivered_of_test (by decide +kernel), by decide, delivered_of_test (by decide +kernel), by decide +kernel,
    delivered_of_test (by decide +kernel), by decide, by decide +kernel, by decide +kernel⟩

/-- The ends of the parameters that R152 bounds, in a tunnel of 12; the codes of the kinds. -/
theorem test_order_bounds :
    let reads (k : OrderKind) (p : List Byte) : Bool := (parseOrder 12 p k).isSome
    (reads .declare [12, 2] && reads .declare [1, 1] && !reads .declare [0, 1] && !reads .declare [13, 1]
      && !reads .declare [1, 3] && reads .forceDirection [97, 1, 1] && !reads .forceDirection [13, 1, 1]
      && !reads .forceDirection [8, 1, 2] && reads .standDown [100, 1] && !reads .standDown [101, 1]
      && reads .inhibit [1, 12] && reads .inhibit [5, 5] && !reads .inhibit [6, 5] && !reads .inhibit [0, 5]
      && !reads .release [1, 13] && reads .ventStop [12, 12] && !reads .ventStop [12, 11]
      && reads .ventRun [1, 1, 0, 20, 1, 0] && reads .ventRun [1, 1, 1, 100, 0, 1] && !reads .ventRun [1, 1, 2, 50, 1, 0]
      && !reads .ventRun [1, 1, 0, 19, 1, 0] && !reads .ventRun [1, 1, 0, 101, 1, 0]
      && !reads .ventRun [1, 1, 0, 50, 0, 0]) = true
    ∧ parseOrder 12 [1, 2, 1, 100, 0, 1] .ventRun = some (.ventRun 1 2 .towardA 100 256)
    ∧ orderKindOf 0 = none ∧ orderKindOf 1 = some .declare ∧ orderKindOf 7 = some .ventStop ∧ orderKindOf 8 = none := by
  decide

/-! ## The fans -/

def runTo (d : Direction) : Target := .run d 50

def fanIs (x : Fan) : State := withFan 0 { x with target := runTo .towardB } node

def due : Option Nat := some node.now

/-- A first and a third fault at each limit. -/
theorem test_fan_limits : node.active = true ∧ node.installed 0 = true
    ∧ ((fanIs { Fan.atReset with state := .braking, brakeUntil := due }).fan 0).state = .braking
    ∧ isDue node.now ((fanIs { Fan.atReset with state := .braking, brakeUntil := due }).fan 0).brakeUntil = true
    ∧ ((fanIs { Fan.atReset with state := .starting, startUntil := due, faultCount := 2 }).fan 0).state = .starting
    ∧ isDue node.now ((fanIs { Fan.atReset with state := .starting, startUntil := due, faultCount := 2 }).fan 0).startUntil
      = true
    ∧ (fanIs { Fan.atReset with faults := 4 }).fch.fans[0].faults ≠ BitVec.allOnes 24
    ∧ after (.brakeLimitExpiry 0) (fanIs { Fan.atReset with state := .braking, brakeUntil := due })
      (fun t => (t.fan 0).state == .fault && (t.fan 0).lastFault == .windmill) = true
    ∧ after (.startLimitExpiry 0) (fanIs { Fan.atReset with state := .starting, startUntil := due, faultCount := 2 })
      (fun t => (t.fan 0).state == .lockedOut && (t.fan 0).lockout == .thirdFault) = true := by decide +kernel

def held0 (debounced : Bool) : State :=
  (fanIs { Fan.atReset with state := .fault, holdUntil := due }).modFanIn 0 fun x => { x with debounced }

theorem test_coast_and_hold :
    ((fanIs { Fan.atReset with state := .stopping, coastUntil := due }).fan 0).state = .stopping
    ∧ isDue node.now ((fanIs { Fan.atReset with state := .stopping, coastUntil := due }).fan 0).coastUntil = true
    ∧ ((held0 true).fan 0).state = .fault ∧ isDue node.now ((held0 true).fan 0).holdUntil = true
    ∧ ((held0 true).fanIn 0).debounced = true ∧ ((held0 false).fanIn 0).debounced = false
    ∧ after (.faultHoldExpiry 0) (held0 false) (fun t => (t.fan 0).state == .off) = true := by decide +kernel

/-- A vent run that orders the node's fans toward B at 50 %. -/
def vented (s : State) : State := { s with ord := { Ord.atReset with vent := some ⟨97, 1, 5, 5, .towardB, 50, sec 200⟩ } }

/-- A fan brought to OFF: without a target, toward a target, turning against it, and with its contact active. -/
theorem test_answers_target : (held0 false).inForce 0 = .off ∧ (vented (held0 false)).inForce 0 = .off
    ∧ after (.faultHoldExpiry 0) (vented (held0 false)) (fun t => (t.fan 0).state == .startWait
      && t.inForce 0 == .run .towardB 50) = true
    ∧ after (.coastLimitExpiry 0)
      (vented (fanIs { Fan.atReset with state := .stopping, coastUntil := due, measured := -11 }))
      (fun t => (t.fan 0).state == .braking && (t.fan 0).coastOverrun) = true
    ∧ after (.coastLimitExpiry 0)
      ((vented (fanIs { Fan.atReset with state := .stopping, coastUntil := due })).modFanIn 0 fun x =>
        { x with debounced := true }) (fun t => (t.fan 0).state == .fault && (t.fan 0).lastFault == .drive) = true := by
  decide +kernel

/-- A change of the target: to OFF and to the other direction, waiting and driven; a new speed; recorded in STOPPING. -/
theorem test_target_change : ((fanIs { Fan.atReset with state := .braking }).changeTarget 0 .off).fan 0
      = { Fan.atReset with measured := 0 }
    ∧ (((fanIs { Fan.atReset with state := .startWait, measured := 11 }).changeTarget 0 (runTo .towardA)).fan 0).state
      = .braking
    ∧ (((fanIs { Fan.atReset with state := .startWait, measured := 10 }).changeTarget 0 (runTo .towardA)).fan 0).state
      = .startWait
    ∧ (((fanIs { Fan.atReset with state := .running }).changeTarget 0 .off).fan 0).state = .stopping
    ∧ (((fanIs { Fan.atReset with state := .running }).changeTarget 0 (runTo .towardA)).fan 0).state = .stopping
    ∧ (((fanIs { Fan.atReset with state := .running }).changeTarget 0 (.run .towardB 20)).fan 0).cmdSpeed = 30
    ∧ (((fanIs { Fan.atReset with state := .stopping }).changeTarget 0 (runTo .towardA)).fan 0).state = .stopping
    ∧ ((fanIs Fan.atReset).leaveOff 0).fan 0 = { Fan.atReset with state := .startWait, target := runTo .towardB } := by
  decide +kernel

/-- The outputs in each state (R115). -/
theorem test_outputs :
    let shows (st : FanState) : Outputs := (fanIs { Fan.atReset with state := st, cmdDir := .towardA }).fanOutputs 0
    shows .off = ⟨false, false, false⟩ ∧ shows .braking = ⟨false, false, true⟩ ∧ shows .startWait = ⟨false, false, false⟩
    ∧ shows .starting = ⟨true, true, false⟩ ∧ shows .running = ⟨true, true, false⟩ ∧ shows .stopping = ⟨false, true, false⟩
    ∧ shows .fault = ⟨false, false, false⟩ ∧ shows .lockedOut = ⟨false, false, false⟩
    ∧ node.fanOutputs 2 = ⟨false, false, false⟩ ∧ node.installed 2 = false
    ∧ State.reset.fanOutputs 0 = ⟨false, false, false⟩ := by decide +kernel

/-- A measured speed: 10 % and 11 % at rest, 80 % of the commanded speed and 1 % less, runs at their ends. -/
theorem test_speed_updates : (((fanIs { Fan.atReset with state := .braking }).speedUpdate 0 (-10)).fan 0).state = .startWait
    ∧ (((fanIs { Fan.atReset with state := .braking }).speedUpdate 0 (-11)).fan 0).state = .braking
    ∧ (((fanIs { Fan.atReset with state := .startWait }).speedUpdate 0 (-11)).fan 0).state = .braking
    ∧ (((fanIs { Fan.atReset with state := .starting, cmdSpeed := 50 }).speedUpdate 0 40).fan 0).state = .running
    ∧ (((fanIs { Fan.atReset with state := .starting, cmdSpeed := 50 }).speedUpdate 0 39).fan 0).state = .starting
    ∧ (((fanIs { Fan.atReset with state := .stopping }).speedUpdate 0 10).fan 0).state = .off
    ∧ (((fanIs { Fan.atReset with
        state := .running, cmdSpeed := 50, directionFrom := some (node.now - ms 2000)
        speedLossFrom := some (node.now - ms 10000) }).speedUpdate 0 (-1)).fan 0).lastFault = .direction
    ∧ (((fanIs { Fan.atReset with
        state := .running, cmdSpeed := 50, speedLossFrom := some (node.now - ms 10000) }).speedUpdate 0 24).fan 0).lastFault
      = .speedLoss
    ∧ (((fanIs { Fan.atReset with
        state := .running, cmdSpeed := 50, speedLossFrom := some (node.now - ms 10000) }).speedUpdate 0 25).fan 0).state
      = .running := by decide +kernel

/-- The claim's holder in START_WAIT, toward B at 50 %, in a vent run that keeps its target. -/
def waiting (list : List QueueEntry) : State :=
  claiming .wait list
    (withFan 0 { Fan.atReset with state := .startWait, target := runTo .towardB, staggerUntil := due }
      { node with ord := { Ord.atReset with vent := some ⟨97, 1, 5, 5, .towardB, 50, sec 200⟩ } })

def ownEntryT : QueueEntry := ⟨5, 1, 9, false, 0⟩
def entriesT (n : Nat) : List QueueEntry := (List.range n).map fun i => ⟨i + 6, 1, 0, false, node.now⟩

theorem test_stagger : (waiting []).active = true ∧ (waiting []).installed 0 = true
    ∧ ((waiting []).fan 0).state = .startWait ∧ ((waiting []).fan 0).target = .run .towardB 50
    ∧ (waiting []).fch.claim = some 0 ∧ (waiting []).anyUp = false ∧ (waiting []).sq.own = .wait
    ∧ isDue (waiting []).now ((waiting []).fan 0).staggerUntil = true
    ∧ after (.staggerExpiry 0) (waiting []) (fun t => (t.fan 0).state == .starting && (t.fan 0).starts == 1
      && t.sq.own == .go && t.inForce 0 == .run .towardB 50) = true
    ∧ (waiting []).signals = .clear ∧ (waiting []).inForce 0 = .run .towardB 50
    ∧ (∀ g, (waiting []).installed g = true → ((waiting []).fanIn g).debounced = false)
    ∧ { waiting [] with ord := Ord.atReset }.inForce 0 = .off
    ∧ after (.staggerExpiry 0) { waiting [] with ord := Ord.atReset } (fun t => (t.fan 0).state == .stopping) = true := by
  decide +kernel

/-- The claim opened for the lowest fan in START_WAIT; closed; echoed to a list with and without the own entry, and to a
full one. -/
theorem test_claim_moves : (fanIs { Fan.atReset with state := .startWait }).fch.claim = none
    ∧ (fanIs { Fan.atReset with state := .startWait }).settleClaim.sq.own = .wait
    ∧ ((fanIs { Fan.atReset with state := .startWait }).settleClaim.liu.l1.claim.cur.map Copy.payload)
      = some [4, 1, 1, 0]
    ∧ (waiting [ownEntryT]).fch.claim = some 0 ∧ ((waiting [ownEntryT]).handBack 0 .abandon).sq.list = []
    ∧ ((waiting [ownEntryT]).ownEcho [4, 1, 9, 0]).sq.list = [{ ownEntryT with heardAt := node.now }]
    ∧ ((waiting (entriesT 2)).ownEcho [4, 1, 9, 0]).sq.list.length = 3
    ∧ ((waiting (entriesT 24)).ownEcho [4, 1, 9, 0]).sq.overflow = true
    ∧ (waiting []).ownEcho [4, 1, 8, 0] = waiting [] := by decide +kernel

/-- One entry before the own one of two starts allowed, and two. -/
theorem test_grant : (waiting (entriesT 1 ++ [ownEntryT])).grantDue = true
    ∧ (waiting (entriesT 2 ++ [ownEntryT])).grantDue = false ∧ (waiting (entriesT 1)).grantDue = false
    ∧ (waiting (entriesT 1 ++ [ownEntryT])).fch.claim = some 0
    ∧ ((waiting (entriesT 1 ++ [ownEntryT])).fan 0).state = .startWait
    ∧ ((waiting (entriesT 1 ++ [ownEntryT])).fan 0).target = .run .towardB 50
    ∧ ((waiting (entriesT 1 ++ [ownEntryT])).judgeGrant.fan 0).state = .starting := by decide +kernel

def minuteFan (written : BitVec 24) : State :=
  fanIs { Fan.atReset with state := .running, accSince := some (node.now - ms 60000), minutes := 14, minutesWritten := written }

/-- Exactly a minute, with the count a fifteenth time and not. -/
theorem test_run_minutes : (minuteFan 0).active = true ∧ (minuteFan 0).installed 0 = true
    ∧ ms 60000 ≤ ((minuteFan 0).fan 0).accumulated node.now
    ∧ ((minuteFan 0).fan 0).minutesWritten.toNat + 15 ≤ (satInc ((minuteFan 0).fan 0).minutes).toNat
    ∧ ((minuteFan 1).fan 0).minutesWritten.toNat + 15 > (satInc ((minuteFan 1).fan 0).minutes).toNat := by decide +kernel

/-! ## The start queue -/

def claimC (p : List Byte) : Instr := .startClaim .l1 (bodyWith .startClaim 6 1 p)

/-- The records of the first and the last gateway and of the end sections, after accepted frames on either line. -/
theorem test_origin_records :
    let hears (c : Instr) (l : LineId) (k : FrameKind) (o : Nat) (q : BitVec 8) (b : List Byte) (p : State → Bool) : Bool :=
      deliveredBy node c l k o q b && after c node p
    let claim (o : Nat) : Frame := bodyWith .startClaim o 1 [4, 1, 0, 0]
    (hears (declareC 9) .l1 .order 97 1 [1, 9, 6, 2, 0, 0, 0, 0, 0] (fun t =>
        (t.gateway 97).origin == some ⟨1, node.now⟩ && (t.gateway 98).origin == none)
      && hears (.incident .l2 (bodyWith .incident 100 3 (incidentP heldT false))) .l2 .incident 100 3 (incidentP heldT false)
        (fun t => (t.gateway 100).origin == some ⟨3, node.now⟩ && (t.gateway 97).origin == none)
      && hears (.startClaim .l1 (claim 1)) .l1 .startClaim 1 1 [4, 1, 0, 0] (fun t =>
        t.entry 1 == { node.entry 1 with origin := some ⟨1, node.now⟩, heard1 := some node.now })
      && hears (.startClaim .l2 (claim 12)) .l2 .startClaim 12 1 [4, 1, 0, 0] (fun t =>
        t.entry 12 == { node.entry 12 with origin := some ⟨1, node.now⟩, heard2 := some node.now })
      && hears (incidentC heldT) .l1 .incident 8 2 (incidentP heldT true) (fun t =>
        t.entry 8 == { node.entry 8 with origin := some ⟨2, node.now⟩, heard1 := some node.now })) = true := by
  decide +kernel

/-- Content that fails, another group, a known entry, another claim of the section, a new section, a full list. -/
theorem test_claims_delivered : Delivered node (claimC [0, 1, 0, 0]) .l1 .startClaim 6 1 [0, 1, 0, 0]
    ∧ parseClaim [0, 1, 0, 0] = none ∧ Delivered node (claimC [3, 1, 0, 0]) .l1 .startClaim 6 1 [3, 1, 0, 0]
    ∧ parseClaim [3, 1, 0, 0] = some ⟨3, 1, 0, .wait⟩
    ∧ Delivered (waiting (entriesT 1)) (claimC [4, 1, 0, 1]) .l1 .startClaim 6 1 [4, 1, 0, 1]
    ∧ parseClaim [4, 1, 0, 1] = some ⟨4, 1, 0, .go⟩ ∧ (waiting (entriesT 1)).sq.list.any (·.known 6 1 0) = true
    ∧ (waiting (entriesT 1)).sq.list.any (·.known 6 1 7) = false
    ∧ (waiting (entriesT 1)).sq.list.any (·.station == 6) = true ∧ node.sq.list.length < 24
    ∧ Delivered (waiting ((entriesT 25).drop 1)) (claimC [4, 1, 0, 0]) .l1 .startClaim 6 1 [4, 1, 0, 0]
    ∧ (waiting ((entriesT 25).drop 1)).sq.list.length = 24 ∧ parseClaim [4, 1, 0, 3] = some ⟨4, 1, 0, .abandon⟩ :=
  ⟨delivered_of_test (by decide +kernel), by decide, delivered_of_test (by decide +kernel), by decide,
    delivered_of_test (by decide +kernel), by decide, by decide, by decide, by decide, by decide,
    delivered_of_test (by decide +kernel), by decide, by decide⟩

theorem test_claim_kept : after (claimC [4, 2, 7, 0]) (waiting (entriesT 1)) (fun t => t.sq.list
      == [⟨6, 2, 7, false, node.now⟩]) = true
    ∧ after (claimC [4, 1, 0, 2]) (waiting (entriesT 1)) (fun t => t.sq.list == []) = true
    ∧ after (claimC [4, 1, 0, 0]) (waiting ((entriesT 25).drop 1)) (fun t => t.sq.overflow && t.sq.dropped == 1) = true
    ∧ (waiting ((entriesT 25).drop 1)).sq.listOk := by
  unfold Sq.listOk
  decide +kernel

/-- The ends of the fields that R139 bounds. -/
theorem test_claim_bounds :
    let reads (p : List Byte) : Bool := (parseClaim p).isSome
    (reads [1, 1, 0, 0] && reads [16, 4, 255, 3] && !reads [17, 1, 0, 0] && !reads [0, 1, 0, 0] && !reads [1, 0, 0, 0]
      && !reads [1, 5, 0, 0] && !reads [1, 1, 0, 4]) = true
    ∧ parseClaim [16, 4, 255, 2] = some ⟨16, 4, 255, .done⟩ := by decide

/-- The holder, third in the list of two starts allowed, starts when an entry before it leaves: by DONE, replaced by a newer
claim at the end of the list, and expired. A WAIT of a known entry leaves it waiting. -/
theorem test_grants_judged :
    let s := waiting (entriesT 2 ++ [ownEntryT])
    let old := waiting ((entriesT 2).map (fun e => { e with heardAt := node.now - ms 12000 }) ++ [ownEntryT])
    let starts (c : Instr) (s : State) : Bool := after c s fun t => (t.fan 0).state == .starting && t.sq.own == .go
      && (t.line .l1).claim.newest.map Copy.payload == some [4, 1, 9, 1]
    s.grantDue = false ∧ s.fch.claim = some 0 ∧ s.installed 0 = true ∧ (s.fan 0).state = .startWait
    ∧ (s.fan 0).target = .run .towardB 50
    ∧ ({ s with sq := { s.sq with list := (entriesT 2 ++ [ownEntryT]).drop 1 } } : State).grantDue = true
    ∧ (starts (claimC [4, 1, 0, 2]) s && starts (claimC [4, 2, 7, 0]) s && starts (.queueEntryExpiry 6) old
      && !starts (claimC [4, 1, 0, 0]) s) = true := by decide +kernel

/-! ## The service port and the store -/

def queued (n : Nat) : State := withPort { Spt.atPowerOn with queue := List.replicate n (0x0001, 5) } node

def during (fn : PortFn) (read : Bool) (s : State) : State := s.modSpt fun x => { x with cycle := some ⟨fn, read⟩ }

/-- Every function and direction of a begun cycle, and none. -/
theorem test_port_cycles : (during .mode false node).spt.cycle = some ⟨.mode, false⟩ ∧ node.spt.cycle = none
    ∧ after (.portCycleBegin true 0b00 false) node (fun t => t == during .mode false node) = true
    ∧ after (.portCycleBegin true 0b10 true) node (fun t => t == during .pointer true node) = true
    ∧ after (.portCycleBegin true 0b11 false) node (fun t => t == during .dataNoInc false node) = true
    ∧ after (.portCycleBegin true 0b01 true) node (fun t => t == during .dataInc true node) = true
    ∧ after (.portCycleBegin false 0b01 true) node (fun t => t == node) = true
    ∧ after (.modeWrite 1) (during .mode false node) (fun t => t.spt.dual) = true
    ∧ after (.modeWrite 1) node (fun t => t == node) = true
    ∧ after (.modeRead true) (during .mode true node) (fun t => t.spt.pd == 0x20 && t.spt.second) = true
    ∧ after (.pointerWrite 7) (during .pointer false node) (fun t => t.spt.wp == 7 && t.spt.phase) = true
    ∧ after .pointerRead (during .pointer true node) (fun t => t.spt.phase && t.spt.pd == 0) = true
    ∧ after (.dataWriteAutoincrement 9 true) (during .dataInc false node) (fun t => t.spt.queue == [(0, 9)]) = true
    ∧ after (.dataWriteNoIncrement 9 false) (during .dataNoInc false node) (fun t => t.spt.refused) = true
    ∧ (during .pointer true node).drivenByte = some 0 ∧ (during .pointer true State.reset).drivenByte = none
    ∧ after (.resetN .asserted) (during .mode false node) (fun t => t.spt.cycle == none) = true := by decide +kernel

theorem test_port_clauses : node.portHeld = false ∧ node.spt.queue = [] ∧ State.reset.portHeld = true
    ∧ (queued 1).spt.queue ≠ [] ∧ 8 ≤ (queued 8).spt.queue.length ∧ (queued 7).spt.queue.length < 8
    ∧ (withPort { Spt.atPowerOn with rp := 0x3FF } (queued 1)).spt.rp.toNat < 0x400
    ∧ ¬ (withPort { Spt.atPowerOn with rp := 0x400 } (queued 1)).spt.rp.toNat < 0x400 := by decide +kernel

/-- PRDY between cycles, in LOAD, and in cycles with and without a cause to wait. -/
theorem test_prdy : node.prdy = true ∧ (queued 8).prdy = true ∧ State.reset.prdy = false
    ∧ (during .pointer false (queued 1)).prdy = false ∧ (during .pointer true (queued 1)).prdy = true
    ∧ (during .dataInc true (queued 1)).prdy = false ∧ (during .dataNoInc false (queued 8)).prdy = false
    ∧ (during .dataNoInc false (queued 7)).prdy = true ∧ (during .mode true (queued 8)).prdy = true
    ∧ (during .mode false node).drivenByte = none ∧ (during .mode true node).drivenByte.isSome = true := by decide +kernel

def locked (w : Byte) : State := { node with cst := { Cst.blank with store := [(0xC0, w)] } }

/-- Where settings, codes, lock word and latches begin and end; a latch written with 1; SERVICE_EN low; the locks. -/
theorem test_write_refused : node.writeRefused 0x1A 1 true = false ∧ node.writeRefused 0x1B 1 true = true
    ∧ node.writeRefused 0x3D 1 true = true ∧ node.writeRefused 0x3E 1 true = false
    ∧ node.writeRefused 0x5C 1 true = false ∧ node.writeRefused 0x5D 1 true = true
    ∧ node.writeRefused 0x77 1 true = false ∧ node.writeRefused 0x78 1 true = true
    ∧ node.writeRefused 0xC0 1 true = false ∧ node.writeRefused 0xC1 1 true = true
    ∧ node.writeRefused 0xC4 0 true = false ∧ node.writeRefused 0xC5 0 true = true
    ∧ node.writeRefused 0x1A 1 false = true ∧ (locked 1).writeRefused 0x3F 1 true = true
    ∧ (locked 2).writeRefused 0x40 1 true = true ∧ (locked 4).writeRefused 0x60 1 true = true
    ∧ (locked 2).writeRefused 0xBE 1 true = false ∧ (locked 6).writeRefused 0xBF 1 true = true := by decide +kernel

/-- A lock bit that waits in the write queue locks at once. -/
theorem test_waiting_lock : (withPort { Spt.atPowerOn with queue := [(0xC0, 2)] } (locked 1)).effectiveLock.getLsbD 1 = true
    ∧ (locked 1).effectiveLock.getLsbD 1 = false ∧ (locked 1).effectiveLock.getLsbD 0 = true
    ∧ (withPort { Spt.atPowerOn with queue := [(0xC0, 2)] } node).writeRefused 0x40 1 true = true := by decide +kernel

/-- A byte of a record with its first byte's read before it, after it, and without it. -/
theorem test_read_clauses : snapshotAt 0 = none ∧ snapshotAt 0x2000 = some (0x2000, 32)
    ∧ snapshotAt 0x201F = some (0x2000, 32)
    ∧ (withPort { Spt.atPowerOn with rp := 0x2001, snap := some ⟨0x2000, [1, 2]⟩ } node).spt.snap = some ⟨0x2000, [1, 2]⟩
    ∧ node.spt.snap = none := by decide +kernel

/-- A section with a report's bytes, one beyond the tunnel, an own entry; a fan installed and one not; a place of the start
queue used and not; the ends of the gaps. -/
def shown : State :=
  node.modEntry 7 fun e => { e with state := .fresh, payload := List.replicate 28 1, writtenAt := node.now - ms 3 }

theorem test_layout_clauses : isSection shown.cfg.n 7 = true ∧ (shown.entry 7).payload.length = 28 ∧ 7 ≠ shown.own
    ∧ (shown.entry 7).state ≠ .empty ∧ shown.cfg.n < 13 ∧ shown.installed 1 = true ∧ shown.installed 2 = false
    ∧ ((List.range 4).map fun i => shown.liveByte (0x20C0 + i)) = [1, 3, 0, 1]
    ∧ shown.liveByte 0x20DF = 0 ∧ shown.liveByte 0x2180 = 0 ∧ shown.liveByte 0x3100 = 1 ∧ shown.liveByte 0x3180 = 0
    ∧ ((List.range 4).map fun i => declaredNode.liveByte (0x3000 + i)) = [1, 8, 23, 1]
    ∧ (waiting [ownEntryT]).liveByte 0x3206 = 1 ∧ (waiting [ownEntryT]).liveByte 0x3208 = 0 := by decide +kernel

theorem test_gaps : noContent 0x400 ∧ noContent 0xFFF ∧ ¬ noContent 0x1000 ∧ noContent 0x3400 := by
  unfold noContent
  decide

def programming (work : Work) (a : Nat) (v : Byte) (latch : Bool) : State :=
  { withFan 1 { Fan.atReset with state := .lockedOut, lockout := .thirdFault } node with
    spt := { Spt.atPowerOn with queue := [(BitVec.ofNat 16 a, v)] }
    cst := { Cst.blank with
      engine := some ⟨work, node.now⟩, updates := if latch then [(.latch 1, 1)] else [] } }

/-- The lock word, a latch with and without a set of it waiting, an item. -/
theorem test_programming : Memory.wf (programming .portEntry 0xC0 0xFF false).cst.store ∧ node.now ≤ node.now
    ∧ (programming .portEntry 0xC0 0xFF false).spt.queue = [(0xC0, 0xFF)]
    ∧ (programming .portEntry 0xC2 0 false).active = true ∧ (programming .portEntry 0xC2 0 false).installed 1 = true
    ∧ ((programming .portEntry 0xC2 0 false).fan 1).state = .lockedOut
    ∧ (programming .portEntry 0xC2 0 true).cst.updates.any (fun u => u.1 == .latch 1) = true
    ∧ after .queueEntryProgrammed (programming .portEntry 0xC0 0xFF false) (fun t => t.cst.store == [(0xC0, 7)]) = true
    ∧ after .queueEntryProgrammed (programming .portEntry 0xC2 0 false) (fun t => (t.fan 1).state == .off) = true
    ∧ after .queueEntryProgrammed (programming .portEntry 0xC2 0 true) (fun t => (t.fan 1).state == .lockedOut) = true
    ∧ after .updateItemProgrammed (programming (.item .declCounter 0x010203) 0 0 false) (fun t =>
      t.cst.store == [(0xC8, 3), (0xC9, 2), (0xCA, 1)]) = true := by
  unfold Memory.wf
  decide +kernel

/-- A latch cleared by a fan that has faulted three times; the work taken next: an update, else the queue, else none. -/
theorem test_next_work :
    let next (c : Instr) (s : State) : Option Job := match exec c s with
      | .next t => t.cst.engine
      | _ => none
    let s := programming .portEntry 0xC2 0 false
    let more (s : State) : State := { s with spt := { s.spt with queue := s.spt.queue ++ [(5, 1)] } }
    let third := withFan 1 { (s.fan 1) with faultCount := 3, lastFault := .drive } s
    after .queueEntryProgrammed third (fun t => (t.fan 1).faultCount == 0 && (t.fan 1).lastFault == .none
      && (t.fan 1).lockout == .none && (t.fan 1).state == .off) = true
    ∧ after .queueEntryProgrammed (vented third) (fun t => (t.fan 1).state == .startWait
      && t.inForce 1 == .run .towardB 50) = true
    ∧ after .queueEntryProgrammed (vented (third.modFanIn 1 fun x => { x with debounced := true })) (fun t =>
      (t.fan 1).state == .fault && (t.fan 1).faultCount == 1 && (t.fan 1).lastFault == .drive) = true
    ∧ next .queueEntryProgrammed s = none
    ∧ next .queueEntryProgrammed (more s) = some ⟨.portEntry, node.now + ms 3⟩
    ∧ next .queueEntryProgrammed (more (programming .portEntry 0xC2 0 true)) = some ⟨.item (.latch 1) 1, node.now + ms 3⟩
    ∧ next .updateItemProgrammed (programming (.item .declCounter 5) 0 0 false) = some ⟨.portEntry, node.now + ms 3⟩ := by
  decide +kernel

/-! ## What is sent, latched, planned and staggered -/

/-- A report at the ends of its ranges, every optional field present. -/
def endReportT : Report :=
  { reportT with
    velocity := some (-2000), smoke := some 20000, temperature := some (-40), callCount := 255, running := 2, thrust := -1284
    availB := 1284, availA := 0, group := 16, summary := some ⟨⟨100, 255⟩, 4, .towardA, 128⟩, lastOrder := some (97, 0) }

theorem test_report_in_range : endReportT.InRange :=
  { life := rfl
    velocity := by intro v h; cases h; decide
    smoke := by intro v h; cases h; decide
    temp := by intro v h; cases h; decide
    calls := by decide
    dets := by decide
    fans := by decide
    avail := by decide
    group := by decide
    summary := by intro v h; cases h; decide
    order := by intro v h; cases h; decide
    tag := by decide }

/-- Reports at the ends, and one without a field, are read back; frames of a lead with a control velocity below 0, and of a
node without a role; claims at the ends. -/
theorem test_payloads_sent : parseReport (encodeReport endReportT) = some endReportT
    ∧ ((encodeReport endReportT).drop 2).take 2 = [0x30, 0xF8]
    ∧ parseReport (encodeReport { reportT with velocity := none }) = some { reportT with velocity := none }
    ∧ (let h : Held := { heldT with demand := some ⟨200, some ⟨6, 0, 255⟩, none⟩ }
      encodeIncident h true true (some (-2)) .controlled
        = [8, 23, 1, 0, 7, 8, 8, 15, 200, 0, 0, 255, 0xFE, 0xFF, 3, 0, 0, 0]
      ∧ encodeIncident h false true none .holding = [8, 23, 1, 0, 7, 8, 8, 6, 200, 0, 0, 255, 0, 0, 4, 0, 0, 0]
      ∧ encodeIncident h true false (some 5) .declared = [8, 23, 1, 0, 7, 8, 8, 1, 0, 0, 0, 0, 0, 0, 2, 0, 0, 0])
    ∧ encodeClaim ⟨16, 4, 255, .done⟩ = [16, 4, 255, 2] ∧ encodeClaim ⟨1, 1, 0, .wait⟩ = [1, 1, 0, 0] := by decide +kernel

/-- Codes, payload bytes and origins of the kinds in a tunnel of 12; the check code grows by a byte. -/
theorem test_frame_kinds :
    let ends (k : FrameKind) : List Bool := [0, 1, 12, 13, 96, 97, 100, 101].map (k.originOk 12)
    ends .sectionReport = [false, true, true, false, false, false, false, false]
    ∧ ends .startClaim = ends .sectionReport
    ∧ ends .incident = [false, true, true, false, false, true, true, false]
    ∧ ends .order = [false, false, false, false, false, true, true, false]
    ∧ (FrameKind.order.code, FrameKind.order.payloadBytes) = (0x4D, 9) ∧ crc16 [] = 0xFFFF ∧ crc16 [0] = 0xE1F0 := by
  decide +kernel

/-- Addresses and bytes of the items (R177). -/
theorem test_items : (Item.startCounter 3).addr = 0xEB ∧ (Item.faultCounter 3).addr = 0xEE ∧ (Item.runMinutes 3).addr = 0xF1
    ∧ (Item.latch 3).addr = 0xC4 ∧ Item.ownInhibit.addr = 0xC5 ∧ Item.declCounter.addr = 0xC8
    ∧ (Item.runMinutes 0).bytes 0x010203 = [3, 2, 1] ∧ (Item.runMinutes 0).width = 3 ∧ (Item.latch 0).bytes 3 = [3] := by
  decide

/-- Snapshot records begin and end; the bytes beside them. -/
theorem test_snapshot_ends : snapshotAt 0x1FFF = none ∧ snapshotAt 0x2BFF = some (0x2BE0, 32) ∧ snapshotAt 0x2C00 = none
    ∧ snapshotAt 0x301F = some (0x3000, 32) ∧ snapshotAt 0x3020 = none ∧ snapshotAt 0x30FF = none
    ∧ snapshotAt 0x31FF = some (0x31C0, 64) ∧ snapshotAt 0x3200 = some (0x3200, 8)
    ∧ snapshotAt 0x32BF = some (0x32B8, 8) ∧ snapshotAt 0x32C0 = none := by decide

/-- Settings of fans above fans installed stay as stored; the settings changed are flagged. -/
theorem test_latched_copy : let m := (storeOf 4 1).write 0x5C 3
    (latchRunning m).settings.installed = 3 ∧ (3 : FanId).val ≥ (latchRunning m).settings.installed
    ∧ (latchRunning (m.writeAll 0x52 [9, 0, 1, 0, 0, 0])).settings.fans[3] = ⟨9, 1, 0, 0⟩
    ∧ ([0x01, 0x40, 0x42, 0x52, 0x54, 0x5A, 0x5C].map (latchRunning m).clamps.contains)
      = [true, false, true, false, false, false, false] := by decide +kernel

/-- P and rated speed from the store, below, in and above their ranges. -/
theorem test_store_tach : let empty : Memory := []
    let m := ((empty.writeAll 0x42 (le16 899)).writeAll 0x48 (le16 3001)).writeAll 0x44 [9]
    storeSpeed m 0 = 900 ∧ storeSpeed m 1 = 3000 ∧ storePulses m 0 = 8 ∧ storePulses m 1 = 1 := by decide +kernel

/-- The declarer's frame on a line after an event, and its timer. -/
def sends (t : State) : Bool := t.inc.declarerDue == some (t.now + ms 2000) && match t.inc.held with
  | some h => (t.line .l1).incident.newest.map Copy.payload == some (encodeIncident h true t.inc.lead t.inc.leadVc t.inc.state)
  | none => false

/-- A node whose declaration counter is at a value. -/
def counted (c : BitVec 24) (s : State) : State := withInc { s.inc with declCounter := c } s

/-- A declaration at the first number, at the last one, and with the counter full; its update asked for, or none. -/
theorem test_declaration_number :
    after (.callPointEdge .cp1) (counted 6 node) (fun t => sends t && t.inc.declCounter == 7 && t.inc.lastDrawn == 7
      && t.cst.engine.map Job.work == some (.item .declCounter 7)) = true
    ∧ after (.callPointEdge .cp1) (counted 16777214 node) (fun t => t.inc.declCounter == 16777215
      && t.cst.engine.map Job.work == some (.item .declCounter 16777215)) = true
    ∧ after (.callPointEdge .cp1) (counted 16777215 node) (fun t => sends t && t.inc.declCounter == 16777215
      && t.inc.lastDrawn == 1 && t.cst.engine == none) = true
    ∧ after (.callPointEdge .cp1) (withInc { Inc.atReset with retired := [⟨5, 1⟩] } node) (fun t => sends t
      && t.inc.lastDrawn == 2 && t.inc.declCounter == 2) = true := by decide +kernel

/-- A record of the own section, held with severity 1. -/
def ownHeldT : Held := { heldT with id := ⟨5, 9⟩ }

def ownDeclared : State := withInc { Inc.atReset with state := .declared, held := some ownHeldT } node

/-- A raise in place, at a CALL and at the entry to RUN; over a peer's record a declaration. -/
theorem test_raise_sends : ownDeclared.inc.held = some ownHeldT ∧ ownHeldT.severity < 2 ∧ ownHeldT.id.station = node.own
    ∧ heldT.severity < 2 ∧ heldT.id.station ≠ node.own ∧ declaredNode.inc.held = some heldT
    ∧ after (.callPointEdge .cp1) ownDeclared (fun t => sends t && t.inc.held == some { ownHeldT with severity := 2 }
      && t.inc.declCounter == 0) = true
    ∧ after (.callPointEdge .cp1) declaredNode (fun t => sends t && (t.inc.held.map Held.id) == some ⟨5, 1⟩) = true
    ∧ after .entryToRun (latchedOver ownHeldT) (fun t => sends t && t.liu.reportDue == some (t.now + ms 500)) = true := by
  decide +kernel

/-- The declarer's frame at its own guard's expiry, at a FORCE_DIRECTION, and at a triple that wins. -/
theorem test_application_sends :
    let own (u : Option PendingTriple) (guard : Option Nat) : State := withInc { Inc.atReset with
      state := .declared, held := some { ownHeldT with pending := u }, guardUntil := guard } node
    let turn : Held := { ownHeldT with triple := ⟨.towardA, 8, 8⟩ }
    after .guardTimerExpiry (own (some ⟨⟨.towardA, 8, 8⟩, 0⟩) (some node.now)) (fun t => sends t
      && t.inc.guardUntil == some (node.now + sec 60)) = true
    ∧ after (.forceDirection .l1 (orderWith 2 98 3 [5, 9, 1, 0, 0, 0, 0])) (own none none) (fun t => sends t
      && (t.inc.held.map Held.triple) == some ⟨.towardA, 8, 98⟩) = true
    ∧ after (incidentC turn) (own none none) (fun t => sends t && t.inc.held == some turn) = true
    ∧ cfgT.guard = 60 ∧ node.guardEnd = some (node.now + sec 60)
    ∧ ({ node with running := some ⟨{ cfgT with guard := 0 }, [], 0, 0, 0⟩ } : State).guardEnd = none := by decide +kernel

/-- The ALERT clear timer: started, running on, stopped; a detector active in QUIET. -/
theorem test_alert_clear :
    let at' (st : IncState) (clear : Option Nat) (period : Nat) : State :=
      (withInc { Inc.atReset with state := st, alertClear := clear } (heated period none)).sample.counted
    let ends (s : State) (st : IncState) (clear : Option Nat) : Bool :=
      let t := (s.consumeIn consumers).finish
      t.inc.held == none && t.inc.state == st && t.inc.alertClear == clear
    (ends (at' .alert none 8000) .alert (some (node.now + sec 30)) && ends (at' .alert (some 7) 8000) .alert (some 7)
      && ends (at' .quiet none 8000) .quiet none) = true
    ∧ evalHeat cfgT 9 (some 60) none .normal = ⟨.preAlarm, false, false, none⟩
    ∧ (let hot (st : IncState) (clear : Option Nat) : State := withInc { Inc.atReset with state := st, alertClear := clear }
        { heated 1724 none with running := some ⟨{ cfgT with heatPre := 200, heatAlarm := 300 }, [], 0x1234, 0, 0⟩ }
      ends (hot .alert (some 7)).sample.counted .alert none && ends (hot .quiet none).sample.counted .alert none) = true := by
  decide +kernel

/-- The lead whose own entry is FRESH, with a nearer section 6 that a report makes countable with velocity, or a STALE entry
takes out of the count: it ceases to lead, and leads. -/
theorem test_view_change_judges_the_lead :
    let near : State := (leading (some 250)).modEntry 6 fun e =>
      { e with state := .fresh, tagMatch := true, writtenAt := node.now - ms 2501
               report := { reportT with summary := some heldT.summary } }
    let r : Instr := .sectionReport .l1 (bodyWith .sectionReport 6 1 (encodeReport { reportT with summary := some heldT.summary }))
    after r (leading (some 250)) (fun t => !t.inc.lead && t.inc.controlDue == none && t.countableWithVelocity 6
      && !(leading (some 250)).countableWithVelocity 6
      && (t.inc.held.map fun h => h.demand.map Demand.t) == some (some 100)) = true
    ∧ near.countable 6 = true
    ∧ after (.entryAgeExpiry 6) (withInc
        { near.inc with lead := false, controlDue := none, held := some { heldT with demand := some ⟨100, none, none⟩ } } near)
        (fun t => !t.countable 6 && t.inc.lead && t.inc.controlDue == some (node.now + ms 2000)) = true := by
  decide +kernel

/-- The plan in force and the plan targets are those of the record held. -/
def plans (t : State) : Bool := match t.inc.held with
  | some h => t.tal.plan == some (t.planOf h) && t.fch.planTargets == (t.computePlan h).fch.planTargets
  | none => false

/-- The plan after own inhibit, an adoption and a control interval, and what makes each an event of R108. -/
theorem test_plan_is_formed :
    let s := planning 240 121
    planEvent (inhibitC 5 5) = true ∧ s.active = true ∧ s.ord.vent = none
    ∧ after (inhibitC 5 5) s (fun t => t.ord.inhibit && plans t) = true
    ∧ after (incidentC heldT) node (fun t => t.inc.held == some heldT && plans t) = true
    ∧ after .controlIntervalExpiry (leading (some 250)) (fun t => t.tal.plan.isSome) = true
    ∧ plans ((withInc declaredNode.inc (sampling 8)).sample.counted.consumeIn consumers).finish = true := by decide +kernel

/-- An INHIBIT of a placed node with a record held is an event of R108. -/
theorem test_plan_asked : (planning 240 121).Placed ∧ ∃ t, exec (inhibitC 5 5) (planning 240 121) = .next t
    ∧ PlanAsked (inhibitC 5 5) (planning 240 121) t ∧ t.inc.held.isSome = true := by
  refine ⟨by unfold State.Placed; decide +kernel, ?_⟩
  have h : after (inhibitC 5 5) (planning 240 121) (fun t => t.ord.inhibit && t.inc.held.isSome) = true := by
    decide +kernel
  unfold after at h
  split at h
  · next t ht =>
    have h := Bool.and_eq_true_iff.mp h
    exact ⟨t, ht, .inr (.inr (.inr (.inl (by rw [h.1]; exact Bool.noConfusion)))), h.2⟩
  · exact absurd h Bool.false_ne_true

/-- A STARTING fan at 80 % of its commanded speed is RUNNING after the expiry, 1 % below not; no exposure run. -/
theorem test_sample_moves_a_fan :
    let s (c : Int) : State := (vented (withFan 0 { Fan.atReset with
        state := .starting, target := runTo .towardB, cmdSpeed := 50, startUntil := some (sec 200) } (sampling 8))).modFanIn 0
      fun x => { x with count := c }
    let t (c : Int) : State := ((s c).sample.counted.consumeIn consumers).finish
    (s 0).fch.exposureFrom = none ∧ ((t 40).fan 0).state = .running ∧ ((t 40).fanIn 0).measured = 40
    ∧ ((t 39).fan 0).state = .starting := by decide +kernel

/-- The holder's stagger timer: section 5 waits 15 s once no line is UP, and none while one is. -/
theorem test_stagger_timer :
    let s (st : LineState) (e : Option Nat) : State := (withLine .l1 { lineIn st with quietFrom := node.now - ms 3000 }
      (waiting [ownEntryT])).modFan 0 fun x => { x with staggerUntil := e }
    (s .up none).anyUp = true ∧ (s .quiet none).anyUp = false
    ∧ after (.quietWatchExpiry .l1) (s .up none) (fun t => (t.line .l1).state == .quiet
      && (t.fan 0).staggerUntil == some (node.now + sec 15)) = true
    ∧ ((s .up (some 7)).updateStagger.fan 0).staggerUntil = none
    ∧ ((s .quiet (some 7)).updateStagger.fan 0).staggerUntil = some 7
    ∧ after (.sectionReport .l1 (bodyWith .sectionReport 7 1 reportP)) (s .quiet (some 7)) (fun t =>
      (t.line .l1).state == .up && (t.fan 0).staggerUntil == none) = true := by decide +kernel

/-- A RUNNING fan stopped: its runs go, its minutes are written, its direction and speed stay (log 52). -/
theorem test_running_fan_stops :
    let x : Fan := { Fan.atReset with
      state := .running, cmdDir := .towardA, cmdSpeed := 50, accSince := some 0, minutes := 3, speedLossFrom := some 1
      directionFrom := some 2 }
    let t := (fanIs x).enterStopping 0
    (t.fan 0).state = .stopping ∧ (t.fan 0).cmdDir = .towardA ∧ (t.fan 0).cmdSpeed = 50 ∧ (t.fan 0).speedLossFrom = none
    ∧ (t.fan 0).directionFrom = none ∧ (t.fan 0).accSince = none ∧ (t.fan 0).minutesWritten = 3
    ∧ t.cst.updates = [(.runMinutes 0, 3)] := by decide +kernel

/-! ## The invariants hold of states in which the node acts, and such a state steps -/

theorem test_store_ok : (queued 8).StoreOk :=
  ⟨⟨List.Pairwise.nil, by decide⟩, List.nodup_nil, by decide +kernel, fun _ => rfl⟩

theorem test_bounds_ok : node.BoundsOk :=
  { retired := ⟨by decide, List.nodup_nil, by decide⟩
    queue := ⟨by decide, List.nodup_nil⟩
    windows := ⟨by decide, by decide⟩
    fans := by unfold Fiu.fansOk; decide +kernel
    lines := by intro l _; cases l <;> decide
    placed := fun _ => test_placed }

theorem test_claim_ok : (waiting [ownEntryT]).ClaimOk :=
  { fan := rfl
    opened := by decide +kernel
    holder := by decide +kernel
    starting := by decide +kernel
    load := by decide +kernel }

/-- Both fans answer the vent run: the holder waits for its start, the other runs. -/
def ventingFans : State :=
  withFan 1 { Fan.atReset with state := .running, target := runTo .towardB, cmdSpeed := 50, measured := 40 }
    (waiting [ownEntryT])

theorem test_fans_safe : ventingFans.FansSafe :=
  { latched := by decide +kernel
    before := by decide +kernel
    turns := by
      intro f d v h ht
      have hf : f = 0 := by clear ht; revert f; decide +kernel
      subst hf
      have h0 : (ventingFans.fan 0).target = .run .towardB 50 := by decide +kernel
      rw [h0] at ht
      cases ht
      decide +kernel
    faulty := by decide +kernel
    answers := by decide +kernel
    aimed := by decide +kernel
    planned := fun f h => absurd (by revert f; decide +kernel) h
    vented := fun _ => rfl
    stopped := fun _ f _ _ => ⟨by revert f; decide +kernel, rfl, .inl (by decide +kernel)⟩ }

/-- A fan that runs for the incident at section 8, whose span begins at section 7. -/
def planFans : State :=
  { withFan 0 { Fan.atReset with state := .running, target := runTo .towardB, cmdSpeed := 50, measured := 40 }
      declaredNode with
    fch := { (withFan 0 { Fan.atReset with
        state := .running, target := runTo .towardB, cmdSpeed := 50, measured := 40 } declaredNode).fch with
      planTargets := #v[runTo .towardB, .off, .off, .off] } }

theorem test_planned_fans_safe : planFans.FansSafe :=
  { latched := by decide +kernel
    before := by decide +kernel
    turns := fun f _ _ h => absurd h (by revert f; decide +kernel)
    faulty := by decide +kernel
    answers := by decide +kernel
    aimed := by decide +kernel
    planned := fun _ _ => ⟨rfl, rfl, heldT, rfl, by decide +kernel⟩
    vented := fun h => absurd rfl h
    stopped := fun _ f hi hs =>
      ⟨by revert f; decide +kernel, rfl, .inr ⟨heldT, rfl, by decide +kernel⟩⟩ }

/-- In the span, or under own inhibit, such a fan is not safe. -/
theorem test_fans_unsafe : heldT.inSpan cfgT 7 = true ∧ heldT.inSpan cfgT 10 = true ∧ heldT.inSpan cfgT 6 = false
    ∧ heldT.inSpan cfgT 11 = false
    ∧ ¬ State.FansSafe { planFans with ord := { planFans.ord with inhibit := true } } :=
  ⟨by decide, by decide, by decide, by decide,
    fun h => absurd (h.planned 0 (by decide +kernel)).2.1 (by decide)⟩

theorem test_steps_answer (s : State) : s.pending = [] → ∃ t, step s = .next t := by
  intro h
  exact ⟨s.idle, by rw [step, h]⟩

end Sys2Proof.Tests
end

section
/-! PROOFS. Serial comparison, the order of records (R72) and the competition of direction triples (R76). -/

namespace Sys2Proof.Machine

/-! ## Serial comparison -/

theorem newer_iff (a b : BitVec 8) : newer a b = true ↔ 1 ≤ (a - b).toNat ∧ (a - b).toNat ≤ 127 := by
  simp only [newer, Bool.and_eq_true, decide_eq_true_eq]

/-- Half a turn apart is half a turn apart seen from either number. -/
theorem toNat_sub_eq_128_comm {a b : BitVec 8} (h : (a - b).toNat = 128) : (b - a).toNat = 128 := by
  bv_omega

theorem newer_eq_false_of_toNat_sub_eq_128 {a b : BitVec 8} (h : (a - b).toNat = 128) : newer a b = false := by
  rw [Bool.eq_false_iff, ne_eq, newer_iff]
  omega

/-! ## The order of records (R72) -/

theorem outranks_iff (sevX : Nat) (x : Identity) (sevY : Nat) (y : Identity) :
    outranks sevX x sevY y = true ↔
      sevY < sevX ∨ (sevX = sevY ∧ x.station < y.station)
      ∨ (sevX = sevY ∧ x.station = y.station ∧ newer x.number y.number = true) := by
  simp only [outranks, Bool.or_eq_true, Bool.and_eq_true, decide_eq_true_eq, beq_iff_eq, or_assoc, and_assoc]

/-- Between two records of one station at one severity the numbers alone decide. -/
theorem outranks_of_same_station {sevX sevY : Nat} {x y : Identity} (hsev : sevX = sevY)
    (hstation : x.station = y.station) : outranks sevX x sevY y = newer x.number y.number := by
  simp [outranks, hsev, hstation]

/-- Settles O29: the rank is read off `outranks_iff`; numbers half a turn apart are newer on neither side. -/
theorem outrankingIsBySeverityStationNumber : Obligations.OutrankingIsBySeverityStationNumber := by
  intro sevX sevY x y _
  refine ⟨?rank, fun hsev hstation hhalf => ⟨?forward, ?backward⟩⟩
  case rank => rw [outranks_iff, newer_iff]
  case forward =>
    rw [outranks_of_same_station hsev hstation]
    exact newer_eq_false_of_toNat_sub_eq_128 hhalf
  case backward =>
    rw [outranks_of_same_station hsev.symm hstation.symm]
    exact newer_eq_false_of_toNat_sub_eq_128 (toNat_sub_eq_128_comm hhalf)

/-! ## The competition of direction triples (R76) -/

theorem wins_iff (a n : Triple) : wins a n = true ↔
    newer a.version n.version = true
    ∨ (a.version = n.version ∧ a ≠ n ∧ a.source < n.source)
    ∨ (a.version = n.version ∧ a.source = n.source ∧ a.dir ≠ n.dir ∧ a.dir = .towardB) := by
  simp only [wins, Bool.or_eq_true, Bool.and_eq_true, decide_eq_true_eq, beq_iff_eq, bne_iff_ne, or_assoc, and_assoc]

theorem competeTriple_of_held {s : State} {h : Held} (hheld : s.inc.held = some h) (a : Triple) :
    s.competeTriple a = if wins a h.newest then s.takeTriple h a else s := by
  simp only [State.competeTriple, hheld]

/-- Settles O30: the winning cases are `wins_iff`, the effect is `competeTriple_of_held` in each outcome. -/
theorem winningTripleIsNewerLowerOrTowardB : Obligations.WinningTripleIsNewerLowerOrTowardB := by
  refine ⟨fun a n => ?winning, fun h => ?newestKnown, fun s h a hheld => ⟨fun hloses => ?dropped, fun hwins => ?taken⟩⟩
  case winning => rw [wins_iff, newer_iff]
  case newestKnown =>
    unfold Held.newest
    cases h.pending <;> rfl
  case dropped => rw [competeTriple_of_held hheld, hloses, if_neg Bool.false_ne_true]
  case taken => rw [competeTriple_of_held hheld, if_pos hwins]

end Sys2Proof.Machine
end

section
/-! PROOFS. The exclusion span (R83), the upstream order (R84) and the rank order (R102) of a held record. -/

namespace Sys2Proof.Machine

/-! ## The exclusion span -/

theorem Held.lo_of_towardB {h : Held} (hdir : h.triple.dir = .towardB) (c : Settings) :
    h.lo c = max 1 (h.locus - c.u) := by
  simp only [Held.lo, spanLo, hdir]

theorem Held.lo_of_towardA {h : Held} (hdir : h.triple.dir = .towardA) (c : Settings) :
    h.lo c = max 1 (h.locus - c.d) := by
  simp only [Held.lo, spanLo, hdir]

theorem Held.hi_of_towardB {h : Held} (hdir : h.triple.dir = .towardB) (c : Settings) :
    h.hi c = min c.n (h.locus + c.d) := by
  simp only [Held.hi, spanHi, hdir]

theorem Held.hi_of_towardA {h : Held} (hdir : h.triple.dir = .towardA) (c : Settings) :
    h.hi c = min c.n (h.locus + c.u) := by
  simp only [Held.hi, spanHi, hdir]

theorem Held.lo_le_locus {h : Held} (hfirst : 1 ≤ h.locus) (c : Settings) : h.lo c ≤ h.locus := by
  cases hdir : h.triple.dir with
  | towardB => rw [h.lo_of_towardB hdir]; exact max_le hfirst (Nat.sub_le ..)
  | towardA => rw [h.lo_of_towardA hdir]; exact max_le hfirst (Nat.sub_le ..)

theorem Held.locus_le_hi {h : Held} {c : Settings} (hlast : h.locus ≤ c.n) : h.locus ≤ h.hi c := by
  cases hdir : h.triple.dir with
  | towardB => rw [h.hi_of_towardB hdir]; exact le_min hlast (Nat.le_add_right ..)
  | towardA => rw [h.hi_of_towardA hdir]; exact le_min hlast (Nat.le_add_right ..)

theorem Held.inSpan_iff (h : Held) (c : Settings) (k : Nat) :
    h.inSpan c k = true ↔ h.lo c ≤ k ∧ k ≤ h.hi c := by
  simp only [Held.inSpan, Bool.and_eq_true, decide_eq_true_eq]

theorem Held.inSpan_eq_false_iff (h : Held) (c : Settings) (k : Nat) :
    h.inSpan c k = false ↔ k < h.lo c ∨ h.hi c < k := by
  rw [← Bool.not_eq_true, h.inSpan_iff]
  omega

theorem isSection_iff (n k : Nat) : isSection n k = true ↔ 1 ≤ k ∧ k ≤ n := by
  simp only [isSection, Bool.and_eq_true, decide_eq_true_eq]

/-! ## The two parts outside the span -/

theorem Held.below_eq_range' (h : Held) (c : Settings) : h.below c = List.range' 1 (h.lo c - 1) := by
  simp only [Held.below, List.range'_eq_map_range, Nat.add_comm]

theorem Held.above_eq_range' (h : Held) (c : Settings) :
    h.above c = List.range' (h.hi c + 1) (c.n - h.hi c) := by
  simp only [Held.above, List.range'_eq_map_range, Nat.add_comm]

theorem Held.mem_below (h : Held) (c : Settings) (k : Nat) : k ∈ h.below c ↔ 1 ≤ k ∧ k < h.lo c := by
  rw [h.below_eq_range', List.mem_range'_1]
  omega

theorem Held.mem_above (h : Held) (c : Settings) (k : Nat) : k ∈ h.above c ↔ h.hi c < k ∧ k ≤ c.n := by
  rw [h.above_eq_range', List.mem_range'_1]
  omega

theorem Held.nodup_below (h : Held) (c : Settings) : (h.below c).Nodup := by
  rw [h.below_eq_range']
  exact List.nodup_range'

theorem Held.nodup_above (h : Held) (c : Settings) : (h.above c).Nodup := by
  rw [h.above_eq_range']
  exact List.nodup_range'

/-- The parts lie on the two sides of the locus. -/
theorem Held.disjoint_below_above {h : Held} {c : Settings} (hfirst : 1 ≤ h.locus) (hlast : h.locus ≤ c.n) :
    List.Disjoint (h.below c) (h.above c) := by
  intro k hbelow habove
  have hk : k < h.lo c := ((h.mem_below c k).1 hbelow).2
  have hk' : h.hi c < k := ((h.mem_above c k).1 habove).1
  have hlo := Held.lo_le_locus hfirst c
  have hhi := Held.locus_le_hi hlast
  omega

/-! ## The orders -/

theorem Held.upstream_of_towardB {h : Held} (hdir : h.triple.dir = .towardB) (c : Settings) :
    h.upstream c = (List.range' 1 (h.lo c - 1)).reverse := by
  simp only [Held.upstream, hdir, h.below_eq_range']

theorem Held.upstream_of_towardA {h : Held} (hdir : h.triple.dir = .towardA) (c : Settings) :
    h.upstream c = List.range' (h.hi c + 1) (c.n - h.hi c) := by
  simp only [Held.upstream, hdir, h.above_eq_range']

theorem Held.rank_of_towardB {h : Held} (hdir : h.triple.dir = .towardB) (c : Settings) :
    h.rank c = List.range' 1 (h.lo c - 1) ++ (List.range' (h.hi c + 1) (c.n - h.hi c)).reverse := by
  simp only [Held.rank, hdir, h.below_eq_range', h.above_eq_range']

theorem Held.rank_of_towardA {h : Held} (hdir : h.triple.dir = .towardA) (c : Settings) :
    h.rank c = (List.range' (h.hi c + 1) (c.n - h.hi c)).reverse ++ List.range' 1 (h.lo c - 1) := by
  simp only [Held.rank, hdir, h.below_eq_range', h.above_eq_range']

/-- The direction only arranges the two parts: which sections are ranked depends on the span alone. -/
theorem Held.rank_perm_below_append_above (h : Held) (c : Settings) :
    (h.rank c).Perm (h.below c ++ h.above c) := by
  rw [h.below_eq_range', h.above_eq_range']
  cases hdir : h.triple.dir with
  | towardB =>
    rw [Held.rank_of_towardB hdir]
    exact (List.reverse_perm _).append_left _
  | towardA =>
    rw [Held.rank_of_towardA hdir]
    exact ((List.reverse_perm _).append_right _).trans List.perm_append_comm

theorem Held.nodup_rank {h : Held} {c : Settings} (hfirst : 1 ≤ h.locus) (hlast : h.locus ≤ c.n) :
    (h.rank c).Nodup :=
  (h.rank_perm_below_append_above c).nodup_iff.2 <|
    (h.nodup_below c).append (h.nodup_above c) (Held.disjoint_below_above hfirst hlast)

theorem Held.mem_rank_iff {h : Held} {c : Settings} (hfirst : 1 ≤ h.locus) (hlast : h.locus ≤ c.n) (k : Nat) :
    k ∈ h.rank c ↔ isSection c.n k = true ∧ h.inSpan c k = false := by
  have hlo := Held.lo_le_locus hfirst c
  have hhi := Held.locus_le_hi hlast
  rw [(h.rank_perm_below_append_above c).mem_iff, List.mem_append, h.mem_below, h.mem_above, isSection_iff,
    h.inSpan_eq_false_iff]
  omega

/-- Settles O37: the bounds and the orders are read off per direction; the rank is a permutation of the two parts that
the span, which holds the locus, leaves on its sides. -/
theorem spanAndOrdersFollowLocusAndDirection : Obligations.SpanAndOrdersFollowLocusAndDirection := by
  intro c h hfirst hlast
  refine ⟨fun hdir => ?towardB, fun hdir => ?towardA, ?locusInSpan, Held.nodup_rank hfirst hlast,
    Held.mem_rank_iff hfirst hlast⟩
  case towardB =>
    exact ⟨Held.lo_of_towardB hdir c, Held.hi_of_towardB hdir c, Held.upstream_of_towardB hdir c,
      Held.rank_of_towardB hdir c⟩
  case towardA =>
    exact ⟨Held.lo_of_towardA hdir c, Held.hi_of_towardA hdir c, Held.upstream_of_towardA hdir c,
      Held.rank_of_towardA hdir c⟩
  case locusInSpan => exact (h.inSpan_iff c h.locus).2 ⟨Held.lo_le_locus hfirst c, Held.locus_le_hi hlast⟩

end Sys2Proof.Machine
end
